-- ==== Sys2Proof/Word.lean ====
section
/-! DEFINITION. The bit-vector types of the machine: the widths that spec/00_scope.md rule R6 and
spec/10_state.md rule R20 fix. -/

namespace Sys2Proof

/-- An 8-bit value: a general register, a memory byte, a timer, an RPL slot (R20). -/
abbrev Byte := BitVec 8

/-- A memory address: "Every address is 12 bits wide" (R60). -/
abbrev Addr := BitVec 12

/-- A 16-bit value: an instruction word (R80), the program counter (R25), a return address (R30). -/
abbrev Word := BitVec 16

/-- A 4-bit value: the immediate N (R81), a key number (R34). -/
abbrev Nibble := BitVec 4

/-- A register number, the field X or Y of an instruction word (R81): V0 to VF. -/
abbrev Reg := BitVec 4

/-- The framebuffer: 8192 cells of 0 or 1, cell j being bit j (R35, R37; log entry 6). -/
abbrev Fb := BitVec 8192

end Sys2Proof
end

