-- ==== Sys2Proof/Config.lean ====
section
/-! DEFINITION. The parameters a machine is made with (spec/00_scope.md rule R7) with the defaults of
spec/20_memory.md rules R64 and R65, and the free inputs of a step (rule R106). -/

namespace Sys2Proof

/-- STACK_CAPACITY: "The default is 48, and 64 is the only other legal value" (R7). -/
inductive StackCapacity where
  | cap48
  | cap64
  deriving DecidableEq, Repr

/-- The number of return addresses the call stack can hold (R30). -/
def StackCapacity.toNat : StackCapacity → Nat
  | .cap48 => 48
  | .cap64 => 64

/-- The named parameters of R7 that are fixed for a machine: STACK_CAPACITY, SMALL_FONT (16 glyphs of 5 rows) and
BIG_FONT (10 glyphs of 10 rows), the glyph layout being that of R63. -/
structure Config where
  stackCapacity : StackCapacity
  smallFont : Vector (Vector Byte 5) 16
  bigFont : Vector (Vector Byte 10) 10
  deriving DecidableEq, Repr

/-- The default SMALL_FONT of R64, glyph d at address 5·d (log entry 3). -/
def Config.defaultSmallFont : Vector (Vector Byte 5) 16 :=
  #v[#v[0xF0, 0x90, 0x90, 0x90, 0xF0],
     #v[0x20, 0x60, 0x20, 0x20, 0x70],
     #v[0xF0, 0x10, 0xF0, 0x80, 0xF0],
     #v[0xF0, 0x10, 0xF0, 0x10, 0xF0],
     #v[0x90, 0x90, 0xF0, 0x10, 0x10],
     #v[0xF0, 0x80, 0xF0, 0x10, 0xF0],
     #v[0xF0, 0x80, 0xF0, 0x90, 0xF0],
     #v[0xF0, 0x10, 0x20, 0x40, 0x40],
     #v[0xF0, 0x90, 0xF0, 0x90, 0xF0],
     #v[0xF0, 0x90, 0xF0, 0x10, 0xF0],
     #v[0xF0, 0x90, 0xF0, 0x90, 0x90],
     #v[0xE0, 0x90, 0xE0, 0x90, 0xE0],
     #v[0xF0, 0x80, 0x80, 0x80, 0xF0],
     #v[0xE0, 0x90, 0x90, 0x90, 0xE0],
     #v[0xF0, 0x80, 0xF0, 0x80, 0xF0],
     #v[0xF0, 0x80, 0xF0, 0x80, 0x80]]

/-- The default BIG_FONT of R65, glyph d at address 0x050 + 10·d (log entry 3). -/
def Config.defaultBigFont : Vector (Vector Byte 10) 10 :=
  #v[#v[0x3C, 0x7E, 0xE7, 0xC3, 0xC3, 0xC3, 0xC3, 0xE7, 0x7E, 0x3C],
     #v[0x18, 0x38, 0x58, 0x18, 0x18, 0x18, 0x18, 0x18, 0x18, 0x3C],
     #v[0x3E, 0x7F, 0xC3, 0x06, 0x0C, 0x18, 0x30, 0x60, 0xFF, 0xFF],
     #v[0x3C, 0x7E, 0xC3, 0x03, 0x0E, 0x0E, 0x03, 0xC3, 0x7E, 0x3C],
     #v[0x06, 0x0E, 0x1E, 0x36, 0x66, 0xC6, 0xFF, 0xFF, 0x06, 0x06],
     #v[0xFF, 0xFF, 0xC0, 0xC0, 0xFC, 0xFE, 0x03, 0xC3, 0x7E, 0x3C],
     #v[0x3E, 0x7C, 0xC0, 0xC0, 0xFC, 0xFE, 0xC3, 0xC3, 0x7E, 0x3C],
     #v[0xFF, 0xFF, 0x03, 0x06, 0x0C, 0x18, 0x30, 0x60, 0x60, 0x60],
     #v[0x3C, 0x7E, 0xC3, 0xC3, 0x7E, 0x7E, 0xC3, 0xC3, 0x7E, 0x3C],
     #v[0x3C, 0x7E, 0xC3, 0xC3, 0x7F, 0x3F, 0x03, 0x03, 0x3E, 0x7C]]

/-- The default parameters: capacity 48 (R7, R30) and the default fonts (R64, R65). -/
def Config.default : Config where
  stackCapacity := .cap48
  smallFont := Config.defaultSmallFont
  bigFont := Config.defaultBigFont

/-- The inputs of one step (R7, R106): `key` is `key_in`, read by FX0A alone; `rand` is the random draw, read by
CXNN alone. -/
structure StepInput where
  key : Option Nibble
  rand : Byte
  deriving DecidableEq, Repr, Inhabited

/-- The inputs of the step number `n` where the driver has lined none up: a FREE VALUE, "under no law" (R106; log
entry 2). It has no body, so nothing can be proved about its values. -/
opaque Config.freeInput : Nat → StepInput

end Sys2Proof
end

