-- ==== Sys2Proof/Syntax.lean ====
section
/-! DEFINITION. The 43 instructions of spec/30_encoding.md rule R85, one constructor per row of
spec/opcode_table.json, in the table's order, with the operand fields of rule R82. -/

namespace Sys2Proof

/-- One decoded instruction. `x` and `y` are the register fields X and Y, `n` the 4-bit, `nn` the 8-bit and
`nnn` the 12-bit immediate (R81). -/
inductive Instr where
  /-- 00CN `SCD N` (R165): scroll down N rows. -/
  | scd (n : Nibble)
  /-- 00E0 `CLS` (R164): clear the screen. -/
  | cls
  /-- 00EE `RET` (R122): return from a subroutine. -/
  | ret
  /-- 00FB `SCR` (R166): scroll right 4 pixels. -/
  | scr
  /-- 00FC `SCL` (R167): scroll left 4 pixels. -/
  | scl
  /-- 00FD `EXIT` (R200): halt cleanly. -/
  | exit
  /-- 00FE `LOW` (R169): Standard display mode. -/
  | low
  /-- 00FF `HIGH` (R170): Extended display mode. -/
  | high
  /-- 1NNN `JP NNN` (R120). -/
  | jp (nnn : Addr)
  /-- 2NNN `CALL NNN` (R121). -/
  | call (nnn : Addr)
  /-- 3XNN `SE VX, NN` (R130). -/
  | seImm (x : Reg) (nn : Byte)
  /-- 4XNN `SNE VX, NN` (R131). -/
  | sneImm (x : Reg) (nn : Byte)
  /-- 5XY0 `SE VX, VY` (R132). -/
  | seReg (x y : Reg)
  /-- 6XNN `LD VX, NN` (R140). -/
  | ldImm (x : Reg) (nn : Byte)
  /-- 7XNN `ADD VX, NN` (R141). -/
  | addImm (x : Reg) (nn : Byte)
  /-- 8XY0 `LD VX, VY` (R142). -/
  | ldReg (x y : Reg)
  /-- 8XY1 `OR VX, VY` (R143). -/
  | orReg (x y : Reg)
  /-- 8XY2 `AND VX, VY` (R144). -/
  | andReg (x y : Reg)
  /-- 8XY3 `XOR VX, VY` (R145). -/
  | xorReg (x y : Reg)
  /-- 8XY4 `ADD VX, VY` (R148). -/
  | addReg (x y : Reg)
  /-- 8XY5 `SUB VX, VY` (R149). -/
  | subReg (x y : Reg)
  /-- 8XY6 `SHR VX {, VY}` (R150); Y is decoded and ignored (R83). -/
  | shr (x y : Reg)
  /-- 8XY7 `SUBN VX, VY` (R151). -/
  | subn (x y : Reg)
  /-- 8XYE `SHL VX {, VY}` (R152); Y is decoded and ignored (R83). -/
  | shl (x y : Reg)
  /-- 9XY0 `SNE VX, VY` (R133). -/
  | sneReg (x y : Reg)
  /-- ANNN `LD I, NNN` (R190). -/
  | ldI (nnn : Addr)
  /-- BNNN `JP V0, NNN` (R123). -/
  | jpV0 (nnn : Addr)
  /-- CXNN `RND VX, NN` (R153). -/
  | rnd (x : Reg) (nn : Byte)
  /-- DXYN `DRW VX, VY, N` (R163). -/
  | drw (x y : Reg) (n : Nibble)
  /-- EX9E `SKP VX` (R134). -/
  | skp (x : Reg)
  /-- EXA1 `SKNP VX` (R135). -/
  | sknp (x : Reg)
  /-- FX07 `LD VX, DT` (R180). -/
  | ldVxDt (x : Reg)
  /-- FX0A `LD VX, K` (R181). -/
  | ldVxK (x : Reg)
  /-- FX15 `LD DT, VX` (R182). -/
  | ldDtVx (x : Reg)
  /-- FX18 `LD ST, VX` (R183). -/
  | ldStVx (x : Reg)
  /-- FX1E `ADD I, VX` (R191). -/
  | addIVx (x : Reg)
  /-- FX29 `LD F, VX` (R192). -/
  | ldF (x : Reg)
  /-- FX30 `LD HF, VX` (R193). -/
  | ldHf (x : Reg)
  /-- FX33 `LD B, VX` (R194). -/
  | ldB (x : Reg)
  /-- FX55 `LD [I], VX` (R195). -/
  | ldMemVx (x : Reg)
  /-- FX65 `LD VX, [I]` (R196). -/
  | ldVxMem (x : Reg)
  /-- FX75 `LD R, VX` (R197). -/
  | ldRVx (x : Reg)
  /-- FX85 `LD VX, R` (R198). -/
  | ldVxR (x : Reg)
  deriving DecidableEq, Repr

end Sys2Proof
end

