-- ==== Sys2Proof/WellFormed.lean ====
section
/-! DEFINITION. What the spec asks of an instruction's operands and of a program image beyond their types. The
field widths of rule R82 are in the types of `Instr`; two rules ask more. An ill-formed instruction still decodes
and runs: its meaning raises the fault the spec names. -/

namespace Sys2Proof

/-- The operand conditions of the spec: FX75 and FX85 take "X, which must be 0..7" (R197, R198); no other
instruction restricts an operand field. -/
def Instr.wf : Instr → Bool
  | .ldRVx x | .ldVxR x => decide (x.toNat ≤ 7)
  | .scd _ | .cls | .ret | .scr | .scl | .exit | .low | .high => true
  | .jp _ | .call _ | .ldI _ | .jpV0 _ => true
  | .seImm _ _ | .sneImm _ _ | .ldImm _ _ | .addImm _ _ | .rnd _ _ => true
  | .seReg _ _ | .ldReg _ _ | .orReg _ _ | .andReg _ _ | .xorReg _ _ | .addReg _ _ | .subReg _ _ => true
  | .shr _ _ | .subn _ _ | .shl _ _ | .sneReg _ _ => true
  | .drw _ _ _ => true
  | .skp _ | .sknp _ | .ldVxDt _ | .ldVxK _ | .ldDtVx _ | .ldStVx _ => true
  | .addIVx _ | .ldF _ | .ldHf _ | .ldB _ | .ldMemVx _ | .ldVxMem _ => true

/-- The largest program image: 0x1000 - 0x200 bytes (R6, R241). -/
def maxImage : Nat := 3584

/-- The load size limit of R241: an image of 0 to 3584 bytes is accepted. -/
def imageWf (image : List Byte) : Bool :=
  decide (image.length ≤ maxImage)

end Sys2Proof
end

