-- ==== Sys2Proof/Decode.lean ====
section
/-! DEFINITION. The decoder of spec/30_encoding.md rules R80 to R86, the opcode map of rule R85 as a table, and
the encoder written from the formats of rule R82. -/

namespace Sys2Proof

/-- `n0 = w[15:12]`, the major opcode (R81). -/
def fieldMajor (w : Word) : Nibble := w.extractLsb' 12 4

/-- `X = w[11:8]`, a register number (R81). -/
def fieldX (w : Word) : Reg := w.extractLsb' 8 4

/-- `Y = w[7:4]`, a register number (R81). -/
def fieldY (w : Word) : Reg := w.extractLsb' 4 4

/-- `N = w[3:0]`, a 4-bit immediate or minor opcode (R81). -/
def fieldN (w : Word) : Nibble := w.extractLsb' 0 4

/-- `NN = w[7:0]`, an 8-bit immediate or minor opcode (R81). -/
def fieldNN (w : Word) : Byte := w.extractLsb' 0 8

/-- `NNN = w[11:0]`, a 12-bit address (R81). -/
def fieldNNN (w : Word) : Addr := w.extractLsb' 0 12

/-- The words with major opcode 0: 00CN and the seven fixed words (R85 rows 1 to 8); every other is unknown, the
whole 0NNN space included (R86). -/
def decodeMajor0 (w : Word) : Option Instr :=
  if fieldX w ≠ 0#4 then none
  else if fieldY w = 0xC#4 then some (.scd (fieldN w))
  else if fieldNN w = 0xE0#8 then some .cls
  else if fieldNN w = 0xEE#8 then some .ret
  else if fieldNN w = 0xFB#8 then some .scr
  else if fieldNN w = 0xFC#8 then some .scl
  else if fieldNN w = 0xFD#8 then some .exit
  else if fieldNN w = 0xFE#8 then some .low
  else if fieldNN w = 0xFF#8 then some .high
  else none

/-- The 8XY_ words, told apart by their last nibble (R85 rows 16 to 24). -/
def decodeMajor8 (w : Word) : Option Instr :=
  if fieldN w = 0x0#4 then some (.ldReg (fieldX w) (fieldY w))
  else if fieldN w = 0x1#4 then some (.orReg (fieldX w) (fieldY w))
  else if fieldN w = 0x2#4 then some (.andReg (fieldX w) (fieldY w))
  else if fieldN w = 0x3#4 then some (.xorReg (fieldX w) (fieldY w))
  else if fieldN w = 0x4#4 then some (.addReg (fieldX w) (fieldY w))
  else if fieldN w = 0x5#4 then some (.subReg (fieldX w) (fieldY w))
  else if fieldN w = 0x6#4 then some (.shr (fieldX w) (fieldY w))
  else if fieldN w = 0x7#4 then some (.subn (fieldX w) (fieldY w))
  else if fieldN w = 0xE#4 then some (.shl (fieldX w) (fieldY w))
  else none

/-- The EX__ words, told apart by their low byte (R85 rows 30 and 31). -/
def decodeMajorE (w : Word) : Option Instr :=
  if fieldNN w = 0x9E#8 then some (.skp (fieldX w))
  else if fieldNN w = 0xA1#8 then some (.sknp (fieldX w))
  else none

/-- The FX__ words, told apart by their low byte (R85 rows 32 to 43). -/
def decodeMajorF (w : Word) : Option Instr :=
  if fieldNN w = 0x07#8 then some (.ldVxDt (fieldX w))
  else if fieldNN w = 0x0A#8 then some (.ldVxK (fieldX w))
  else if fieldNN w = 0x15#8 then some (.ldDtVx (fieldX w))
  else if fieldNN w = 0x18#8 then some (.ldStVx (fieldX w))
  else if fieldNN w = 0x1E#8 then some (.addIVx (fieldX w))
  else if fieldNN w = 0x29#8 then some (.ldF (fieldX w))
  else if fieldNN w = 0x30#8 then some (.ldHf (fieldX w))
  else if fieldNN w = 0x33#8 then some (.ldB (fieldX w))
  else if fieldNN w = 0x55#8 then some (.ldMemVx (fieldX w))
  else if fieldNN w = 0x65#8 then some (.ldVxMem (fieldX w))
  else if fieldNN w = 0x75#8 then some (.ldRVx (fieldX w))
  else if fieldNN w = 0x85#8 then some (.ldVxR (fieldX w))
  else none

/-- Decoding is "a total function over all 65536 values" (R84); `none` is UnknownInstruction (R86). -/
def decode (w : Word) : Option Instr :=
  match fieldMajor w with
  | 0x0#4 => decodeMajor0 w
  | 0x1#4 => some (.jp (fieldNNN w))
  | 0x2#4 => some (.call (fieldNNN w))
  | 0x3#4 => some (.seImm (fieldX w) (fieldNN w))
  | 0x4#4 => some (.sneImm (fieldX w) (fieldNN w))
  | 0x5#4 => if fieldN w = 0x0#4 then some (.seReg (fieldX w) (fieldY w)) else none
  | 0x6#4 => some (.ldImm (fieldX w) (fieldNN w))
  | 0x7#4 => some (.addImm (fieldX w) (fieldNN w))
  | 0x8#4 => decodeMajor8 w
  | 0x9#4 => if fieldN w = 0x0#4 then some (.sneReg (fieldX w) (fieldY w)) else none
  | 0xA#4 => some (.ldI (fieldNNN w))
  | 0xB#4 => some (.jpV0 (fieldNNN w))
  | 0xC#4 => some (.rnd (fieldX w) (fieldNN w))
  | 0xD#4 => some (.drw (fieldX w) (fieldY w) (fieldN w))
  | 0xE#4 => decodeMajorE w
  | _ => decodeMajorF w

/-- What the decoder reads from a stream of bytes. -/
inductive DecodeResult where
  /-- An instruction and the bytes after it. -/
  | instr (i : Instr) (rest : List Byte)
  /-- The word is no row of R85 (R86): UnknownInstruction. -/
  | unknownInstruction (w : Word)
  /-- Fewer than the two bytes of an instruction are there (R80). -/
  | truncated
  deriving DecidableEq, Repr

/-- The instruction word of two bytes: "the byte at the lower address is the more significant" (R61). -/
def wordOfBytes (hi lo : Byte) : Word := hi ++ lo

/-- The byte of a word that stands at the lower address (R61). -/
def highByte (w : Word) : Byte := w.extractLsb' 8 8

/-- The byte of a word that stands at the higher address (R61). -/
def lowByte (w : Word) : Byte := w.extractLsb' 0 8

/-- "A decoder always consumes 2 bytes" (R80). -/
def decodeBytes : List Byte → DecodeResult
  | hi :: lo :: rest =>
    match decode (wordOfBytes hi lo) with
    | some i => .instr i rest
    | none => .unknownInstruction (wordOfBytes hi lo)
  | _ => .truncated

/-- The two bytes of a word as memory stores them, the more significant first (R61). -/
def bytesOfWord (w : Word) : List Byte := [highByte w, lowByte w]

/-- The instruction the decoder reads from the word `w`, numbered as spec/opcode_table.json numbers its bits. Every
instruction is one 16-bit word (R80), so `nbits` is 16 and bits above it are 0. -/
def decodeTableWord (nbits w : Nat) : Option Instr :=
  match decodeBytes (bytesOfWord (BitVec.ofNat 16 (w % 2 ^ nbits))) with
  | .instr i _ => some i
  | .unknownInstruction _ => none
  | .truncated => none

/-- The word of an instruction, from the formats of R82 and the fixed digits of R85. -/
def encode : Instr → Word
  | .scd n => 0x00C#12 ++ n
  | .cls => 0x00E0#16
  | .ret => 0x00EE#16
  | .scr => 0x00FB#16
  | .scl => 0x00FC#16
  | .exit => 0x00FD#16
  | .low => 0x00FE#16
  | .high => 0x00FF#16
  | .jp nnn => 0x1#4 ++ nnn
  | .call nnn => 0x2#4 ++ nnn
  | .seImm x nn => 0x3#4 ++ x ++ nn
  | .sneImm x nn => 0x4#4 ++ x ++ nn
  | .seReg x y => 0x5#4 ++ x ++ y ++ 0x0#4
  | .ldImm x nn => 0x6#4 ++ x ++ nn
  | .addImm x nn => 0x7#4 ++ x ++ nn
  | .ldReg x y => 0x8#4 ++ x ++ y ++ 0x0#4
  | .orReg x y => 0x8#4 ++ x ++ y ++ 0x1#4
  | .andReg x y => 0x8#4 ++ x ++ y ++ 0x2#4
  | .xorReg x y => 0x8#4 ++ x ++ y ++ 0x3#4
  | .addReg x y => 0x8#4 ++ x ++ y ++ 0x4#4
  | .subReg x y => 0x8#4 ++ x ++ y ++ 0x5#4
  | .shr x y => 0x8#4 ++ x ++ y ++ 0x6#4
  | .subn x y => 0x8#4 ++ x ++ y ++ 0x7#4
  | .shl x y => 0x8#4 ++ x ++ y ++ 0xE#4
  | .sneReg x y => 0x9#4 ++ x ++ y ++ 0x0#4
  | .ldI nnn => 0xA#4 ++ nnn
  | .jpV0 nnn => 0xB#4 ++ nnn
  | .rnd x nn => 0xC#4 ++ x ++ nn
  | .drw x y n => 0xD#4 ++ x ++ y ++ n
  | .skp x => 0xE#4 ++ x ++ 0x9E#8
  | .sknp x => 0xE#4 ++ x ++ 0xA1#8
  | .ldVxDt x => 0xF#4 ++ x ++ 0x07#8
  | .ldVxK x => 0xF#4 ++ x ++ 0x0A#8
  | .ldDtVx x => 0xF#4 ++ x ++ 0x15#8
  | .ldStVx x => 0xF#4 ++ x ++ 0x18#8
  | .addIVx x => 0xF#4 ++ x ++ 0x1E#8
  | .ldF x => 0xF#4 ++ x ++ 0x29#8
  | .ldHf x => 0xF#4 ++ x ++ 0x30#8
  | .ldB x => 0xF#4 ++ x ++ 0x33#8
  | .ldMemVx x => 0xF#4 ++ x ++ 0x55#8
  | .ldVxMem x => 0xF#4 ++ x ++ 0x65#8
  | .ldRVx x => 0xF#4 ++ x ++ 0x75#8
  | .ldVxR x => 0xF#4 ++ x ++ 0x85#8

/-- One row of the opcode map of R85: a word `w` is that row's instruction when `w &&& mask = value`. -/
structure OpcodeRow where
  mask : Word
  value : Word
  mnemonic : String
  deriving DecidableEq, Repr

/-- Rows 1 to 8 of R85: the words 00CN to 00FF. -/
def opcodeMapSystem : List OpcodeRow :=
  [⟨0xFFF0, 0x00C0, "SCD_N"⟩,
   ⟨0xFFFF, 0x00E0, "CLS"⟩,
   ⟨0xFFFF, 0x00EE, "RET"⟩,
   ⟨0xFFFF, 0x00FB, "SCR"⟩,
   ⟨0xFFFF, 0x00FC, "SCL"⟩,
   ⟨0xFFFF, 0x00FD, "EXIT"⟩,
   ⟨0xFFFF, 0x00FE, "LOW"⟩,
   ⟨0xFFFF, 0x00FF, "HIGH"⟩]

/-- Rows 9 to 13 of R85: 1NNN to 5XY0. -/
def opcodeMapControl : List OpcodeRow :=
  [⟨0xF000, 0x1000, "JP_NNN"⟩,
   ⟨0xF000, 0x2000, "CALL_NNN"⟩,
   ⟨0xF000, 0x3000, "SE_VX__NN"⟩,
   ⟨0xF000, 0x4000, "SNE_VX__NN"⟩,
   ⟨0xF00F, 0x5000, "SE_VX__VY"⟩]

/-- Rows 14 to 24 of R85: 6XNN to 8XYE. -/
def opcodeMapAlu : List OpcodeRow :=
  [⟨0xF000, 0x6000, "LD_VX__NN"⟩,
   ⟨0xF000, 0x7000, "ADD_VX__NN"⟩,
   ⟨0xF00F, 0x8000, "LD_VX__VY"⟩,
   ⟨0xF00F, 0x8001, "OR_VX__VY"⟩,
   ⟨0xF00F, 0x8002, "AND_VX__VY"⟩,
   ⟨0xF00F, 0x8003, "XOR_VX__VY"⟩,
   ⟨0xF00F, 0x8004, "ADD_VX__VY"⟩,
   ⟨0xF00F, 0x8005, "SUB_VX__VY"⟩,
   ⟨0xF00F, 0x8006, "SHR_VX____VY"⟩,
   ⟨0xF00F, 0x8007, "SUBN_VX__VY"⟩,
   ⟨0xF00F, 0x800E, "SHL_VX____VY"⟩]

/-- Rows 25 to 31 of R85: 9XY0 to EXA1. -/
def opcodeMapMixed : List OpcodeRow :=
  [⟨0xF00F, 0x9000, "SNE_VX__VY"⟩,
   ⟨0xF000, 0xA000, "LD_I__NNN"⟩,
   ⟨0xF000, 0xB000, "JP_V0__NNN"⟩,
   ⟨0xF000, 0xC000, "RND_VX__NN"⟩,
   ⟨0xF000, 0xD000, "DRW_VX__VY__N"⟩,
   ⟨0xF0FF, 0xE09E, "SKP_VX"⟩,
   ⟨0xF0FF, 0xE0A1, "SKNP_VX"⟩]

/-- Rows 32 to 43 of R85: the FX__ words. -/
def opcodeMapF : List OpcodeRow :=
  [⟨0xF0FF, 0xF007, "LD_VX__DT"⟩,
   ⟨0xF0FF, 0xF00A, "LD_VX__K"⟩,
   ⟨0xF0FF, 0xF015, "LD_DT__VX"⟩,
   ⟨0xF0FF, 0xF018, "LD_ST__VX"⟩,
   ⟨0xF0FF, 0xF01E, "ADD_I__VX"⟩,
   ⟨0xF0FF, 0xF029, "LD_F__VX"⟩,
   ⟨0xF0FF, 0xF030, "LD_HF__VX"⟩,
   ⟨0xF0FF, 0xF033, "LD_B__VX"⟩,
   ⟨0xF0FF, 0xF055, "LD__I___VX"⟩,
   ⟨0xF0FF, 0xF065, "LD_VX___I"⟩,
   ⟨0xF0FF, 0xF075, "LD_R__VX"⟩,
   ⟨0xF0FF, 0xF085, "LD_VX__R"⟩]

/-- The complete opcode map of R85, as spec/opcode_table.json lists it. The decoder does not use it: that the two
agree is a statement of its own. -/
def opcodeMap : List OpcodeRow :=
  opcodeMapSystem ++ opcodeMapControl ++ opcodeMapAlu ++ opcodeMapMixed ++ opcodeMapF

/-- "Every word matching (w & mask) = match is that instruction" (R85). -/
def OpcodeRow.covers (r : OpcodeRow) (w : Word) : Bool := w &&& r.mask == r.value

/-- The mnemonic of an instruction, as spec/opcode_table.json spells it. -/
def Instr.mnemonic : Instr → String
  | .scd _ => "SCD_N"
  | .cls => "CLS"
  | .ret => "RET"
  | .scr => "SCR"
  | .scl => "SCL"
  | .exit => "EXIT"
  | .low => "LOW"
  | .high => "HIGH"
  | .jp _ => "JP_NNN"
  | .call _ => "CALL_NNN"
  | .seImm _ _ => "SE_VX__NN"
  | .sneImm _ _ => "SNE_VX__NN"
  | .seReg _ _ => "SE_VX__VY"
  | .ldImm _ _ => "LD_VX__NN"
  | .addImm _ _ => "ADD_VX__NN"
  | .ldReg _ _ => "LD_VX__VY"
  | .orReg _ _ => "OR_VX__VY"
  | .andReg _ _ => "AND_VX__VY"
  | .xorReg _ _ => "XOR_VX__VY"
  | .addReg _ _ => "ADD_VX__VY"
  | .subReg _ _ => "SUB_VX__VY"
  | .shr _ _ => "SHR_VX____VY"
  | .subn _ _ => "SUBN_VX__VY"
  | .shl _ _ => "SHL_VX____VY"
  | .sneReg _ _ => "SNE_VX__VY"
  | .ldI _ => "LD_I__NNN"
  | .jpV0 _ => "JP_V0__NNN"
  | .rnd _ _ => "RND_VX__NN"
  | .drw _ _ _ => "DRW_VX__VY__N"
  | .skp _ => "SKP_VX"
  | .sknp _ => "SKNP_VX"
  | .ldVxDt _ => "LD_VX__DT"
  | .ldVxK _ => "LD_VX__K"
  | .ldDtVx _ => "LD_DT__VX"
  | .ldStVx _ => "LD_ST__VX"
  | .addIVx _ => "ADD_I__VX"
  | .ldF _ => "LD_F__VX"
  | .ldHf _ => "LD_HF__VX"
  | .ldB _ => "LD_B__VX"
  | .ldMemVx _ => "LD__I___VX"
  | .ldVxMem _ => "LD_VX___I"
  | .ldRVx _ => "LD_R__VX"
  | .ldVxR _ => "LD_VX__R"

end Sys2Proof
end

