-- ==== Sys2Proof/Machine/State.lean ====
section
/-! DEFINITION. The machine state of spec/10_state.md rule R20 as plain data, the faults of spec/60_exceptions.md
rule R210, and the state right after reset (rule R43). -/

namespace Sys2Proof.Machine

/-- The display mode (R36): the machine's only control field. -/
inductive Mode where
  /-- 64×32, the mode after reset. -/
  | standard
  /-- 128×64. -/
  | extended
  deriving DecidableEq, Repr

/-- The complete list of step faults (R210), each with the information R210 records. A meaning (or the fetch and the
decoder) RAISES one by taking fault entry, `raise` in Machine/Ops.lean: a next state whose `status` holds it (R211).
`step` answers `.fault` with it only on a machine that already stands faulted (R107). Both are safe: the machine goes
on nowhere the spec's machine does not. -/
inductive Fault where
  /-- Code 1, raised by decode on a word of R86 (R212): the word and its address. Safe. -/
  | unknownInstruction (w pc : Word)
  /-- Code 2, raised by 2NNN on a full stack (R213): the address of the call. Safe. -/
  | stackOverflow (pc : Word)
  /-- Code 3, raised by 00EE on an empty stack (R214): the address of the return. Safe. -/
  | stackUnderflow (pc : Word)
  /-- Code 4, raised by fetch outside 0x200..0xFFE (R215): that address. Safe. -/
  | pcOutOfRange (pc : Word)
  /-- Code 5, raised by DXYN, FX33, FX55, FX65 (R216): the highest address the instruction would touch. Safe. -/
  | memoryOutOfRange (addr : Word)
  /-- Code 6, raised by EX9E and EXA1 when VX > 15 (R217): the value of VX. Safe. -/
  | keyIndexOutOfRange (value : Byte)
  /-- Code 7, raised by FX75 and FX85 when X > 7 (R218): X. Safe. -/
  | rplIndexOutOfRange (x : Reg)
  /-- Code 8, raised by FX29 when VX > 15 and FX30 when VX > 9 (R219): the value of VX. Safe. -/
  | fontDigitOutOfRange (value : Byte)
  deriving DecidableEq, Repr

/-- Why the model would give an instruction no meaning. -/
inductive Refusal where
  /-- Raised by an arm of `exec` whose instruction has no meaning yet; no arm does. Safe. -/
  | notModelled (mnemonic : String)
  deriving DecidableEq, Repr

/-- How the run stands (R41). -/
inductive Status where
  /-- `step` executes instructions. -/
  | running
  /-- Set by 00FD, "the clean halt (not an error)". -/
  | halted
  /-- Set by fault entry (R211). -/
  | faulted (f : Fault)
  deriving DecidableEq, Repr

/-- THE STATE RECORD of R20: "exactly these fields", `{ mem, V, I, pc, stack, DT, ST, key, rpl, fb, mode, redraw,
status }`, in its order. -/
structure Record where
  /-- The 4096 bytes of memory (R20, R60), as the cells that differ from what `Memory.unlisted` gives. -/
  mem : List Host.Cell
  /-- V0 to VF (R21). -/
  V : Vector Byte 16
  /-- The address register, 12 bits of value (R27). -/
  I : Addr
  /-- The program counter (R25). -/
  pc : Word
  /-- The return addresses, the oldest first: entry k is `stack[k]` of R31, and `sp` is the length. -/
  stack : List Word
  /-- The delay timer (R32). -/
  DT : Byte
  /-- The sound timer (R33). -/
  ST : Byte
  /-- The keypad, true for pressed (R34). -/
  key : Vector Bool 16
  /-- The RPL flags (R29). -/
  rpl : Vector Byte 8
  /-- The framebuffer (R35). -/
  fb : Fb
  /-- The display mode (R36). -/
  mode : Mode
  /-- The redraw output flag (R39). -/
  redraw : Bool
  /-- The run status (R41). -/
  status : Status
  deriving DecidableEq, Repr

/-- THE ENVIRONMENT OF A STEP, "Not state" by R20: the arguments of the model that R7 names, as plain data, because
`step` takes no argument beside the state (log entries 2, 4 and 21). -/
structure Environment where
  /-- STACK_CAPACITY, SMALL_FONT and BIG_FONT (R7); nothing changes them. -/
  cfg : Config
  /-- The inputs `key_in` and `rand` (R106) that the driver has lined up for the coming steps, the next ones first. -/
  inputs : List StepInput
  /-- How many steps' inputs have been used; it numbers the free inputs. -/
  turn : Nat
  deriving DecidableEq, Repr

/-- What the one transition works on: the machine's state, which is the record of R20 and nothing else
(`State.toRecord`), and beside it the arguments the step is called with (`State.toEnvironment`). -/
structure State extends Record, Environment where
  deriving DecidableEq, Repr

/-- What a meaning and a step answer. -/
abbrev Result := Host.Outcome State Fault Refusal

/-- The framebuffer with every cell 0. -/
def blankFb : Fb := ⟨0, Nat.two_pow_pos 8192⟩

/-- The machine right after `load` of an empty image with the default parameters (R43, R240): memory holds the fonts
and zeros (R63, nothing listed), pc is 0x200 (R242), the mode is Standard, the status Running, all else zero. -/
def State.reset : State where
  mem := []
  V := Vector.replicate 16 0#8
  I := 0#12
  pc := 0x200#16
  stack := []
  DT := 0#8
  ST := 0#8
  key := Vector.replicate 16 false
  rpl := Vector.replicate 8 0#8
  fb := blankFb
  mode := .standard
  redraw := false
  status := .running
  cfg := Config.default
  inputs := []
  turn := 0

end Sys2Proof.Machine
end

