-- ==== Sys2Proof/Machine/Ops.lean ====
section
/-! DEFINITION. The named operations on the machine: memory (spec/20_memory.md), registers, the program counter,
fetch (spec/40_step.md rules R101, R102), the step inputs (rule R106) and fault entry (spec/60_exceptions.md
rule R211). -/

namespace Sys2Proof.Machine

/-! ### Memory -/

/-- What the byte at `a` reads as while no write has changed it: the contents after `load` of R63, the small font at
0x000–0x04F, the big font at 0x050–0x0B3 and zero above. -/
def Memory.unlisted (c : Config) (a : Nat) : Byte :=
  if h : a < 0x50 then (c.smallFont[a / 5]'(by omega))[a % 5]'(by omega)
  else if h' : a < 0xB4 then (c.bigFont[(a - 0x50) / 10]'(by omega))[(a - 0x50) % 10]'(by omega)
  else 0#8

/-- The byte at address `a`. -/
def Memory.read (c : Config) : List Host.Cell → Nat → Byte
  | [], a => Memory.unlisted c a
  | e :: rest, a => if e.1 = a then e.2 else Memory.read c rest a

/-- The cells that hold byte `v` at address `a`: none when the unlisted value is `v`. -/
def Memory.cell (c : Config) (a : Nat) (v : Byte) : List Host.Cell :=
  if v = Memory.unlisted c a then [] else [(a, v)]

/-- The memory with byte `v` at address `a` and every other byte as before, the cells in address order. -/
def Memory.write (c : Config) (m : List Host.Cell) (a : Nat) (v : Byte) : List Host.Cell :=
  m.filter (fun e => e.1 < a) ++ Memory.cell c a v ++ m.filter (fun e => a < e.1)

/-- The canonical form of a memory: addresses strictly rising, all below 0x1000, no cell equal to what an unlisted
address reads as. -/
abbrev Memory.wf (c : Config) (m : List Host.Cell) : Prop :=
  m.Pairwise (fun e e' => e.1 < e'.1) ∧ ∀ e ∈ m, e.1 < 0x1000 ∧ e.2 ≠ Memory.unlisted c e.1

/-- `MemRead(addr, 1)` (R10, R62). -/
def State.readByte (s : State) (a : Addr) : Byte := Memory.read s.cfg s.mem a.toNat

/-- `MemWrite(addr, 1, v)` (R10, R62). -/
def State.writeByte (s : State) (a : Addr) (v : Byte) : State :=
  { s with mem := Memory.write s.cfg s.mem a.toNat v }

/-- Bytes written to consecutive addresses from `a` on, "sequences of 1-byte accesses at consecutive addresses"
(R62). -/
def State.storeBytes (s : State) (a : Addr) : List Byte → State
  | [] => s
  | v :: rest => State.storeBytes (s.writeByte a v) (a + 1#12) rest

/-! ### Registers -/

/-- `x[i]`, the value of register Vi (R9, R21). -/
def State.getV (s : State) (x : Reg) : Byte := s.V[x.toNat]'(x.isLt)

/-- `x[i] <- v` (R9, R21). -/
def State.setV (s : State) (x : Reg) (v : Byte) : State :=
  { s with V := s.V.set x.toNat v x.isLt }

/-- Registers V0 up to V(count - 1) take the values `f 0`, `f 1`, …; the others stay. -/
def State.loadV (s : State) (count : Nat) (f : Nat → Byte) : State :=
  { s with V := s.V.mapFinIdx fun i v _ => if i < count then f i else v }

/-- The values of V0 to VX, in order (R195, R197). -/
def State.regsUpTo (s : State) (x : Reg) : List Byte :=
  (List.range (x.toNat + 1)).map fun i => s.getV (BitVec.ofNat 4 i)

/-- RPL slots 0 up to `count - 1` take the values `f 0`, `f 1`, …; the others stay (R197). -/
def State.storeRpl (s : State) (count : Nat) (f : Nat → Byte) : State :=
  { s with rpl := s.rpl.mapFinIdx fun i v _ => if i < count then f i else v }

/-- `rpl[i]` for `i` in 0..7 (R9, R29). -/
def State.getRpl (s : State) (i : Nat) : Byte := s.rpl[i]?.getD 0#8

/-! ### The program counter -/

/-- `pc_next <- t` (R11, R104). -/
def State.jumpTo (s : State) (t : Word) : State := { s with pc := t }

/-- The automatic advance by 2 (R104). -/
def State.advance (s : State) : State := s.jumpTo (s.pc + 2#16)

/-- A conditional skip: "a skip moves pc by exactly 4 bytes" (R136), else the automatic advance (R104). -/
def State.skipIf (s : State) (c : Bool) : State := s.jumpTo (if c then s.pc + 4#16 else s.pc + 2#16)

/-! ### The call stack -/

/-- `sp`: the number of entries (R31). -/
def State.sp (s : State) : Nat := s.stack.length

/-- `stack[sp] <- a; sp <- sp + 1` (R31, R121). -/
def State.push (s : State) (a : Word) : State := { s with stack := s.stack ++ [a] }

/-- `sp <- sp - 1`, the entry at the old top removed (R31, R122). -/
def State.pop (s : State) : State := { s with stack := s.stack.dropLast }

/-! ### Faults -/

/-- FAULT ENTRY (R211): "no write of the faulting step takes effect", and the status takes the fault. There is no
handler, no saved state and no return from it (R221). -/
def raise (f : Fault) (s : State) : Result := .next { s with status := .faulted f }

/-- The number of a fault in R210. -/
def Fault.code : Fault → Nat
  | .unknownInstruction _ _ => 1
  | .stackOverflow _ => 2
  | .stackUnderflow _ => 3
  | .pcOutOfRange _ => 4
  | .memoryOutOfRange _ => 5
  | .keyIndexOutOfRange _ => 6
  | .rplIndexOutOfRange _ => 7
  | .fontDigitOutOfRange _ => 8

/-! ### Fetch -/

/-- The fetchable range, `0x200 ≤ pc ≤ 0xFFE` (R69). -/
abbrev State.fetchable (s : State) : Prop := 0x200 ≤ s.pc.toNat ∧ s.pc.toNat ≤ 0xFFE

/-- The memory address a program counter names. -/
def codeAddr (pc : Word) : Addr := pc.setWidth 12

/-- `w <- MemRead(pc, 2)`: the byte at pc is the more significant (R61, R102). -/
def State.fetchWord (s : State) : Word :=
  wordOfBytes (s.readByte (codeAddr s.pc)) (s.readByte (codeAddr s.pc + 1#12))

/-- The state with the word `w` stored at pc and pc + 1, the more significant byte first (R61). -/
def State.placeWord (s : State) (w : Word) : State :=
  s.storeBytes (codeAddr s.pc) (bytesOfWord w)

/-! ### The step inputs -/

/-- The inputs of the coming step (R106): the next one the driver has lined up, else a free one. -/
def State.input (s : State) : StepInput :=
  match s.inputs with
  | [] => Config.freeInput s.turn
  | i :: _ => i

/-- The inputs of a step are used up by it: those of the next step are another draw (R106). -/
def State.consumeInput (s : State) : State := { s with inputs := s.inputs.tail, turn := s.turn + 1 }

end Sys2Proof.Machine
end

