-- ==== Sys2Proof/Machine/Flags.lean ====
section
/-! DEFINITION. The flag register VF (spec/10_state.md rules R23, R24) and every result that comes with a flag:
sums and carries (R146, R148, R191), the absolute difference and no-borrow (R147), the one-bit shifts (R150, R152). -/

namespace Sys2Proof.Machine

/-- VF is `x[15]` (R23). -/
def regVF : Reg := 0xF#4

/-- A flag as the register holds it: 1 or 0. -/
def flagByte (f : Bool) : Byte := if f then 1#8 else 0#8

/-- A flag written to VF (R23). -/
def State.setFlag (s : State) (f : Bool) : State := s.setV regVF (flagByte f)

/-- "the result is written to x[X]; then the flag is written to VF" (R24). -/
def State.setWithFlag (s : State) (x : Reg) (r : Byte × Bool) : State := (s.setV x r.1).setFlag r.2

/-- Addition modulo 256 with the carry, "sum ≥ 0x100 ⇒ carry 1" (R148). -/
def addCarry (a b : Byte) : Byte × Bool :=
  (BitVec.ofNat 8 (a.toNat + b.toNat), decide (a.toNat + b.toNat ≥ 0x100))

/-- The subtraction law of R147: the absolute difference of minuend and subtrahend, and the no-borrow flag. -/
def absDiff (m s : Byte) : Byte × Bool :=
  if m.toNat ≥ s.toNat then (BitVec.ofNat 8 (m.toNat - s.toNat), true)
  else (BitVec.ofNat 8 (s.toNat - m.toNat), false)

/-- The shift right by one with the bit shifted out, the old bit 0 (R150). -/
def shiftRight1 (a : Byte) : Byte × Bool := (a >>> 1, a.getLsbD 0)

/-- The shift left by one with the bit shifted out, the old bit 7 (R152). -/
def shiftLeft1 (a : Byte) : Byte × Bool := (a <<< 1, a.getLsbD 7)

/-- `I + x[X]` kept to 12 bits, with the carry out of 12 bits (R191). -/
def addIndex (i : Addr) (v : Byte) : Addr × Bool :=
  (BitVec.ofNat 12 (i.toNat + v.toNat), decide (i.toNat + v.toNat > 0xFFF))

end Sys2Proof.Machine
end

