-- ==== Sys2Proof/Machine/Operands.lean ====
section
/-! DEFINITION. The operand forms: immediates (spec/30_encoding.md rule R83), data addresses from I
(spec/20_memory.md rule R68), key numbers, font glyph addresses and decimal digits. -/

namespace Sys2Proof.Machine

/-- `zext_16(NNN)`, a jump target: "target address is the literal 12-bit NNN" (R83, R120). -/
def targetNNN (nnn : Addr) : Word := nnn.setWidth 16

/-- `zext_16(NNN) + zext_16(x[0])`, "not masked" (R123). -/
def targetV0 (s : State) (nnn : Addr) : Word := nnn.setWidth 16 + (s.getV 0#4).setWidth 16

/-- The data address `I + k` (R62), for an access whose range has been checked. -/
def State.dataAddr (s : State) (k : Nat) : Addr := s.I + BitVec.ofNat 12 k

/-- The highest address an access of `count` bytes from I on would touch, before any wrap (R68, R216). -/
def State.lastAddr (s : State) (count : Nat) : Nat := s.I.toNat + count - 1

/-- The address check of R68: a data access of `count` bytes at I, every address checked before the first write, else
MemoryOutOfRange with the highest address (R216). -/
def State.withRange (s : State) (count : Nat) (body : Result) : Result :=
  if count > 0 ∧ s.lastAddr count > 0xFFF then raise (.memoryOutOfRange (BitVec.ofNat 16 (s.lastAddr count))) s
  else body

/-- The number of bytes FX55 and FX65 move: V0 to VX inclusive (R195, R196). -/
def regCount (x : Reg) : Nat := x.toNat + 1

/-- The key check of R134 and R135: VX names a key, else KeyIndexOutOfRange with its value (R217). -/
def State.withKey (s : State) (x : Reg) (body : Bool → Result) : Result :=
  if h : (s.getV x).toNat < 16 then body (s.key[(s.getV x).toNat]'h)
  else raise (.keyIndexOutOfRange (s.getV x)) s

/-- The slot check of R197 and R198: X is 0..7, else RplIndexOutOfRange with X (R218). -/
def State.withRpl (s : State) (x : Reg) (body : Result) : Result :=
  if x.toNat > 7 then raise (.rplIndexOutOfRange x) s else body

/-- The digit check of R192 and R193: VX is at most `limit`, else FontDigitOutOfRange with its value (R219). -/
def State.withDigit (s : State) (x : Reg) (limit : Nat) (body : Nat → Result) : Result :=
  if (s.getV x).toNat > limit then raise (.fontDigitOutOfRange (s.getV x)) s else body (s.getV x).toNat

/-- The small-font glyph of digit d stands at 5·d (R63, R192). -/
def smallGlyph (d : Nat) : Addr := BitVec.ofNat 12 (5 * d)

/-- The big-font glyph of digit d stands at 0x050 + 10·d (R63, R193). -/
def bigGlyph (d : Nat) : Addr := BitVec.ofNat 12 (0x50 + 10 * d)

/-- The decimal digits of a byte, hundreds, tens and ones (R194). -/
def decimalDigits (v : Byte) : List Byte :=
  [BitVec.ofNat 8 (v.toNat / 100), BitVec.ofNat 8 (v.toNat / 10 % 10), BitVec.ofNat 8 (v.toNat % 10)]

/-- A 4-bit key number as a register value (R181). -/
def keyValue (k : Nibble) : Byte := k.setWidth 8

end Sys2Proof.Machine
end

