-- ==== Sys2Proof/Machine/Alu.lean ====
section
/-! DEFINITION. Register loads, ALU and random: spec/43_alu.md rules R140 to R154. -/

namespace Sys2Proof.Machine

/-- `LD VX, NN` (6XNN, R140). -/
def execLdImm (x : Reg) (nn : Byte) (s : State) : Result := .next (s.setV x nn).advance

/-- `ADD VX, NN` (7XNN, R141): modulo 256, no flag. -/
def execAddImm (x : Reg) (nn : Byte) (s : State) : Result :=
  .next (s.setV x (addCarry (s.getV x) nn).1).advance

/-- `LD VX, VY` (8XY0, R142). -/
def execLdReg (x y : Reg) (s : State) : Result := .next (s.setV x (s.getV y)).advance

/-- `OR VX, VY` (8XY1, R143). -/
def execOrReg (x y : Reg) (s : State) : Result := .next (s.setV x (s.getV x ||| s.getV y)).advance

/-- `AND VX, VY` (8XY2, R144). -/
def execAndReg (x y : Reg) (s : State) : Result := .next (s.setV x (s.getV x &&& s.getV y)).advance

/-- `XOR VX, VY` (8XY3, R145). -/
def execXorReg (x y : Reg) (s : State) : Result := .next (s.setV x (s.getV x ^^^ s.getV y)).advance

/-- `ADD VX, VY` (8XY4, R148): VF = carry, written last. -/
def execAddReg (x y : Reg) (s : State) : Result :=
  .next (s.setWithFlag x (addCarry (s.getV x) (s.getV y))).advance

/-- `SUB VX, VY` (8XY5, R149): the absolute difference, VF = no borrow. -/
def execSubReg (x y : Reg) (s : State) : Result :=
  .next (s.setWithFlag x (absDiff (s.getV x) (s.getV y))).advance

/-- `SHR VX {, VY}` (8XY6, R150): VY is neither read nor written. -/
def execShr (x _y : Reg) (s : State) : Result := .next (s.setWithFlag x (shiftRight1 (s.getV x))).advance

/-- `SUBN VX, VY` (8XY7, R151): VY is the minuend. -/
def execSubn (x y : Reg) (s : State) : Result :=
  .next (s.setWithFlag x (absDiff (s.getV y) (s.getV x))).advance

/-- `SHL VX {, VY}` (8XYE, R152): VY is neither read nor written. -/
def execShl (x _y : Reg) (s : State) : Result := .next (s.setWithFlag x (shiftLeft1 (s.getV x))).advance

/-- `RND VX, NN` (CXNN, R153): the step's random draw, masked. -/
def execRnd (x : Reg) (nn : Byte) (s : State) : Result := .next (s.setV x (s.input.rand &&& nn)).advance

end Sys2Proof.Machine
end

