-- ==== Sys2Proof/Machine/Blitter.lean ====
section
/-! DEFINITION. The framebuffer and the sprite blitter: cells and screen positions (spec/10_state.md rules R35 to
R39), sprite geometry, pixel operation, clipping and collision (spec/44_display.md rules R160 to R162), and the
rows that a scroll moves (rule R168). -/

namespace Sys2Proof.Machine

/-- W, the screen width (R36). -/
def Mode.width : Mode → Nat
  | .standard => 64
  | .extended => 128

/-- H, the screen height (R36). -/
def Mode.height : Mode → Nat
  | .standard => 32
  | .extended => 64

/-- `fb[j]` (R9). -/
def Fb.cell (fb : Fb) (j : Nat) : Bool := fb.getLsbD j

/-- `fb[j] <- fb[j] ^ 1` (R162). -/
def Fb.flip (fb : Fb) (j : Nat) : Fb := fb ^^^ BitVec.twoPow 8192 j

/-- The cell of screen position (x, y): `y*W + x` (R37). -/
def Mode.cellAt (m : Mode) (x y : Nat) : Nat := y * m.width + x

/-- The pixel at screen position (x, y) (R37). -/
def State.pixel (s : State) (x y : Nat) : Bool := Fb.cell s.fb (s.mode.cellAt x y)

/-! ### Sprites -/

/-- The number of bytes a sprite spans: N, or for N = 0 32 in Extended mode and none in Standard mode (R161, R163). -/
def spriteBytes (m : Mode) (n : Nibble) : Nat :=
  if n.toNat ≥ 1 then n.toNat
  else match m with
    | .extended => 32
    | .standard => 0

/-- The number of rows of a sprite (R161). -/
def spriteHeight (m : Mode) (n : Nibble) : Nat :=
  if n.toNat ≥ 1 then n.toNat
  else match m with
    | .extended => 16
    | .standard => 0

/-- The number of pixels of a sprite row (R161). -/
def spriteWidth (n : Nibble) : Nat := if n.toNat ≥ 1 then 8 else 16

/-- The bit of pixel column c in row r: "the most significant bit is the leftmost pixel"; a 16-pixel row is two
bytes, "the byte at the lower address is the left half" (R161). -/
def State.spriteBit (s : State) (n : Nibble) (c r : Nat) : Bool :=
  if n.toNat ≥ 1 then (s.readByte (s.dataAddr r)).getMsbD c
  else (s.readByte (s.dataAddr (2 * r)) ++ s.readByte (s.dataAddr (2 * r + 1))).getMsbD c

/-- The pixels (c, r) of a sprite whose bit is 1, row by row (R161, R162). -/
def State.spritePixels (s : State) (n : Nibble) : List (Nat × Nat) :=
  (List.range (spriteHeight s.mode n)).flatMap fun r =>
    ((List.range (spriteWidth n)).filter fun c => s.spriteBit n c r).map fun c => (c, r)

/-- One sprite pixel whose bit is 1, drawn from origin (x0, y0): clipped at the edge of the screen, else its cell is
flipped, and a cell that was 1 is a collision (R162). -/
def blitPixel (m : Mode) (x0 y0 : Nat) (acc : Fb × Bool) (p : Nat × Nat) : Fb × Bool :=
  if x0 + p.1 ≥ m.width ∨ y0 + p.2 ≥ m.height then acc
  else (Fb.flip acc.1 (m.cellAt (x0 + p.1) (y0 + p.2)), acc.2 || Fb.cell acc.1 (m.cellAt (x0 + p.1) (y0 + p.2)))

/-- The framebuffer after a draw from origin (x0, y0), and whether a cell went from 1 to 0; "collision starts false
for each draw" (R162). -/
def State.blit (s : State) (x0 y0 : Nat) (n : Nibble) : Fb × Bool :=
  (s.spritePixels n).foldl (blitPixel s.mode x0 y0) (s.fb, false)

/-- The origin of a draw, `x[X] mod W` (R160). -/
def State.originX (s : State) (x : Reg) : Nat := (s.getV x).toNat % s.mode.width

/-- The origin of a draw, `x[Y] mod H` (R160). -/
def State.originY (s : State) (y : Reg) : Nat := (s.getV y).toNat % s.mode.height

/-! ### Rows -/

/-- Row y of the screen, pixel x being bit x. -/
def Fb.row (w : Nat) (fb : Fb) (y : Nat) : BitVec w := fb.extractLsb' (y * w) w

/-- The first `h` rows of a screen of width `w`, row y being `f y`, in the cell order of R37. -/
def Fb.ofRows (w : Nat) (f : Nat → BitVec w) : Nat → Fb
  | 0 => blankFb
  | h + 1 => Fb.ofRows w f h ||| ((f h).setWidth 8192 <<< (h * w))

/-- The framebuffer with every on-screen row y replaced by `f y`; the cells off the screen stay (R168). -/
def Fb.setScreen (m : Mode) (f : Nat → BitVec m.width) (fb : Fb) : Fb :=
  Fb.ofRows m.width f m.height ||| ((fb >>> (m.width * m.height)) <<< (m.width * m.height))

/-- Every row moved down by n, zeros above (R165). -/
def scrollDown (m : Mode) (n : Nat) (fb : Fb) : Fb :=
  Fb.setScreen m (fun y => if y ≥ n then Fb.row m.width fb (y - n) else 0) fb

/-- Every row moved right by 4, zeros at the left; "A row never spills into the next row" (R166). -/
def scrollRight4 (m : Mode) (fb : Fb) : Fb :=
  Fb.setScreen m (fun y => Fb.row m.width fb y <<< 4) fb

/-- Every row moved left by 4, zeros at the right (R167). -/
def scrollLeft4 (m : Mode) (fb : Fb) : Fb :=
  Fb.setScreen m (fun y => Fb.row m.width fb y >>> 4) fb

/-- New framebuffer contents, with the redraw flag set: "every other instruction that writes fb" sets it (R39). -/
def State.setFb (s : State) (fb : Fb) : State := { s with fb := fb, redraw := true }

/-- A display mode switch, which clears every cell even if the mode does not change (R169, R170). -/
def State.switchMode (s : State) (m : Mode) : State := { s with mode := m, fb := blankFb, redraw := true }

end Sys2Proof.Machine
end

