-- ==== Sys2Proof/Machine/Display.lean ====
section
/-! DEFINITION. Draw, clear, scroll and display mode: spec/44_display.md rules R163 to R170. -/

namespace Sys2Proof.Machine

/-- What a draw leaves: the framebuffer and `redraw`, and VF = collision, written last (R163). -/
def State.afterDraw (s : State) (r : Fb × Bool) : State := (s.setFb r.1).setFlag r.2

/-- `DRW VX, VY, N` (DXYN, R163): the addresses of the whole sprite are checked, clipped rows included, then the
blit. -/
def execDrw (x y : Reg) (n : Nibble) (s : State) : Result :=
  s.withRange (spriteBytes s.mode n)
    (.next (s.afterDraw (s.blit (s.originX x) (s.originY y) n)).advance)

/-- `CLS` (00E0, R164): every one of the 8192 cells, in either mode. -/
def execCls (s : State) : Result := .next (s.setFb blankFb).advance

/-- `SCD N` (00CN, R165). -/
def execScd (n : Nibble) (s : State) : Result := .next (s.setFb (scrollDown s.mode n.toNat s.fb)).advance

/-- `SCR` (00FB, R166). -/
def execScr (s : State) : Result := .next (s.setFb (scrollRight4 s.mode s.fb)).advance

/-- `SCL` (00FC, R167). -/
def execScl (s : State) : Result := .next (s.setFb (scrollLeft4 s.mode s.fb)).advance

/-- `LOW` (00FE, R169). -/
def execLow (s : State) : Result := .next (s.switchMode .standard).advance

/-- `HIGH` (00FF, R170). -/
def execHigh (s : State) : Result := .next (s.switchMode .extended).advance

end Sys2Proof.Machine
end

