-- ==== Sys2Proof/Machine/Jump.lean ====
section
/-! DEFINITION. Jumps, calls and returns: spec/41_jump_call.md rules R120 to R125. -/

namespace Sys2Proof.Machine

/-- `JP NNN` (1NNN, R120): `pc_next <- zext_16(NNN)`. -/
def execJp (nnn : Addr) (s : State) : Result := .next (s.jumpTo (targetNNN nnn))

/-- `CALL NNN` (2NNN, R121): StackOverflow on a full stack, else push pc + 2 and jump (log entry 8). -/
def execCall (nnn : Addr) (s : State) : Result :=
  if s.sp ≥ s.cfg.stackCapacity.toNat then raise (.stackOverflow s.pc) s
  else .next ((s.push (s.pc + 2#16)).jumpTo (targetNNN nnn))

/-- `RET` (00EE, R122): StackUnderflow on an empty stack, else pop the return address into pc. -/
def execRet (s : State) : Result :=
  match s.stack.getLast? with
  | none => raise (.stackUnderflow s.pc) s
  | some a => .next (s.pop.jumpTo a)

/-- `JP V0, NNN` (BNNN, R123): `pc_next <- zext_16(NNN) + zext_16(x[0])`, not masked. -/
def execJpV0 (nnn : Addr) (s : State) : Result := .next (s.jumpTo (targetV0 s nnn))

end Sys2Proof.Machine
end

