-- ==== Sys2Proof/Machine/MemoryOps.lean ====
section
/-! DEFINITION. Address register and memory block operations: spec/46_memory_ops.md rules R190 to R199. -/

namespace Sys2Proof.Machine

/-- `LD I, NNN` (ANNN, R190). -/
def execLdI (nnn : Addr) (s : State) : Result := .next { s with I := nnn }.advance

/-- `ADD I, VX` (FX1E, R191): the sum kept to 12 bits, VF = carry out of 12 bits, written last. -/
def execAddIVx (x : Reg) (s : State) : Result :=
  .next (({ s with I := (addIndex s.I (s.getV x)).1 }).setFlag (addIndex s.I (s.getV x)).2).advance

/-- `LD F, VX` (FX29, R192): `I <- 5·d`. -/
def execLdF (x : Reg) (s : State) : Result := s.withDigit x 0xF fun d => .next { s with I := smallGlyph d }.advance

/-- `LD HF, VX` (FX30, R193): `I <- 0x050 + 10·d`. -/
def execLdHf (x : Reg) (s : State) : Result := s.withDigit x 9 fun d => .next { s with I := bigGlyph d }.advance

/-- `LD B, VX` (FX33, R194): the decimal digits of VX at I, I + 1, I + 2. -/
def execLdB (x : Reg) (s : State) : Result :=
  s.withRange 3 (.next (s.storeBytes s.I (decimalDigits (s.getV x))).advance)

/-- `LD [I], VX` (FX55, R195): V0 to VX stored from I on; I unchanged. -/
def execLdMemVx (x : Reg) (s : State) : Result :=
  s.withRange (regCount x) (.next (s.storeBytes s.I (s.regsUpTo x)).advance)

/-- `LD VX, [I]` (FX65, R196): V0 to VX loaded from I on; I unchanged. -/
def execLdVxMem (x : Reg) (s : State) : Result :=
  s.withRange (regCount x) (.next (s.loadV (regCount x) fun i => s.readByte (s.dataAddr i)).advance)

/-- `LD R, VX` (FX75, R197): V0 to VX stored to the RPL flags. -/
def execLdRVx (x : Reg) (s : State) : Result :=
  s.withRpl x (.next (s.storeRpl (regCount x) fun i => s.getV (BitVec.ofNat 4 i)).advance)

/-- `LD VX, R` (FX85, R198): V0 to VX loaded from the RPL flags. -/
def execLdVxR (x : Reg) (s : State) : Result :=
  s.withRpl x (.next (s.loadV (regCount x) fun i => s.getRpl i).advance)

end Sys2Proof.Machine
end

