-- ==== Sys2Proof/Machine/Skip.lean ====
section
/-! DEFINITION. The conditional skips: spec/42_skips.md rules R130 to R136. -/

namespace Sys2Proof.Machine

/-- `SE VX, NN` (3XNN, R130). -/
def execSeImm (x : Reg) (nn : Byte) (s : State) : Result := .next (s.skipIf (s.getV x == nn))

/-- `SNE VX, NN` (4XNN, R131). -/
def execSneImm (x : Reg) (nn : Byte) (s : State) : Result := .next (s.skipIf (s.getV x != nn))

/-- `SE VX, VY` (5XY0, R132). -/
def execSeReg (x y : Reg) (s : State) : Result := .next (s.skipIf (s.getV x == s.getV y))

/-- `SNE VX, VY` (9XY0, R133). -/
def execSneReg (x y : Reg) (s : State) : Result := .next (s.skipIf (s.getV x != s.getV y))

/-- `SKP VX` (EX9E, R134): skip if the key numbered VX is pressed. -/
def execSkp (x : Reg) (s : State) : Result := s.withKey x fun pressed => .next (s.skipIf pressed)

/-- `SKNP VX` (EXA1, R135): skip if the key numbered VX is not pressed. -/
def execSknp (x : Reg) (s : State) : Result := s.withKey x fun pressed => .next (s.skipIf !pressed)

end Sys2Proof.Machine
end

