-- ==== Sys2Proof/Machine/System.lean ====
section
/-! DEFINITION. The system instruction 00FD: spec/47_system.md rule R200. -/

namespace Sys2Proof.Machine

/-- `EXIT` (00FD, R200): `status <- Halted`, followed by the normal advance. -/
def execExit (s : State) : Result := .next { s with status := .halted }.advance

end Sys2Proof.Machine
end

