-- ==== Sys2Proof/Machine/TimerKey.lean ====
section
/-! DEFINITION. Timer and key instructions: spec/45_timer_key.md rules R180 to R184. -/

namespace Sys2Proof.Machine

/-- `LD VX, DT` (FX07, R180). -/
def execLdVxDt (x : Reg) (s : State) : Result := .next (s.setV x s.DT).advance

/-- `LD VX, K` (FX0A, R181): with no key this step "the step changes nothing" and pc stays, so that the same
instruction runs again; with key k, VX takes k and pc advances. -/
def execLdVxK (x : Reg) (s : State) : Result :=
  .next (match s.input.key with
    | none => s.jumpTo s.pc
    | some k => (s.setV x (keyValue k)).advance)

/-- `LD DT, VX` (FX15, R182). -/
def execLdDtVx (x : Reg) (s : State) : Result := .next { s with DT := s.getV x }.advance

/-- `LD ST, VX` (FX18, R183). -/
def execLdStVx (x : Reg) (s : State) : Result := .next { s with ST := s.getV x }.advance

end Sys2Proof.Machine
end

