-- ==== Sys2Proof/Machine/Cycle.lean ====
section
/-! DEFINITION. The step cycle: spec/40_step.md rules R100 to R110, in the order of checks of spec/60_exceptions.md
rule R220. -/

namespace Sys2Proof.Machine

/-- Fetch check, fetch, decode and execute, on a running machine (R101, R102, R103, R109). -/
def runInstr (s : State) : Result :=
  if ¬ s.fetchable then raise (.pcOutOfRange s.pc) s
  else match decode s.fetchWord with
    | none => raise (.unknownInstruction s.fetchWord s.pc) s
    | some i => exec i s

/-- The step's inputs are used up, whatever the step did (R106; log entry 2). -/
def endStep : Result → Result
  | .next t => .next t.consumeInput
  | .fault f => .fault f
  | .refused r => .refused r

/-- One step (R109). A stopped machine changes nothing and gives the stored outcome (R107): `Halted` shows in the
status of the unchanged state, `Fault` is answered as such (log entry 1). -/
def cycle (s : State) : Result :=
  match s.status with
  | .halted => .next s
  | .faulted f => .fault f
  | .running => endStep (runInstr s)

end Sys2Proof.Machine
end

