-- ==== Sys2Proof/Machine/Step.lean ====
section
/-! DEFINITION. The one transition of the machine, `step` (spec/40_step.md), and the placing of an instruction where
it fetches next. -/

namespace Sys2Proof.Machine

/-- One call of the step port with the inputs the state holds (R100; Machine/Cycle.lean). -/
def step (s : State) : Host.Outcome State Fault Refusal := cycle s

/-- `s` with the instruction word `w` stored at pc and pc + 1, big-endian (R61), so that a running machine with pc in
the fetchable range runs it next. Every instruction is 16 bits (R80): bits above `nbits` are 0. -/
def State.withFetchWord (s : State) (nbits w : Nat) : State :=
  s.placeWord (BitVec.ofNat 16 (w % 2 ^ nbits))

end Sys2Proof.Machine
end

