-- ==== Sys2Proof/Machine/Ports.lean ====
section
/-! DEFINITION. The engine's public ports and the driver (spec/60_exceptions.md rules R224 to R231,
spec/70_reset_and_hazards.md rules R240 to R242): `load`, `step` with explicit inputs, `tick_timers`, `set_key`,
`ack_redraw`, `read_framebuffer`, `read_timers`, and the driver's turns between and around steps. -/

namespace Sys2Proof.Machine

/-- The error of `load` (R235). -/
inductive LoadError where
  /-- An image longer than the limit of R241: "It creates no machine". -/
  | programTooLarge
  deriving DecidableEq, Repr

/-- The result of a step (R100, R108). -/
inductive StepResult where
  /-- `Continue`: the status is still Running. -/
  | continues
  /-- `Halted`. -/
  | halted
  /-- `Fault(code, info)`. -/
  | fault (f : Fault)
  deriving DecidableEq, Repr

/-- What the host may do to the machine between steps (R231); the two reading ports change nothing. -/
inductive HostAction where
  | tickTimers
  | setKey (k : Nibble) (pressed : Bool)
  | ackRedraw
  deriving DecidableEq, Repr

/-- One turn of the driver: "These ports can occur in any order and any number between two steps" (R231), then a call
of `step` with its inputs. -/
structure Turn where
  acts : List HostAction
  input : StepInput
  deriving DecidableEq, Repr

/-- The program load address (R6, R242). -/
def loadAddr : Addr := 0x200#12

/-- Port `load(bytes) -> Machine`, the only reset (R240): "Load never modifies an existing machine", and an oversized
image "is rejected whole" (R241). -/
def portLoad (c : Config) (image : List Byte) : Except LoadError State :=
  if imageWf image then .ok ({ State.reset with cfg := c }.storeBytes loadAddr image)
  else .error .programTooLarge

/-- `if T > 0 then T <- T − 1` (R224). -/
def tickDown (t : Byte) : Byte := if t.toNat > 0 then t - 1#8 else t

/-- Port `tick_timers(machine)`, allowed in every status (R224). -/
def portTickTimers (s : State) : State := { s with DT := tickDown s.DT, ST := tickDown s.ST }

/-- Port `set_key(machine, key, pressed)` (R227). -/
def portSetKey (k : Nibble) (pressed : Bool) (s : State) : State :=
  { s with key := s.key.set k.toNat pressed k.isLt }

/-- Port `ack_redraw(machine)` (R229). -/
def portAckRedraw (s : State) : State := { s with redraw := false }

/-- Port `read_framebuffer(machine)`: W, H and the cells `fb[0 .. W·H − 1]` (R228). -/
def portReadFramebuffer (s : State) : Nat × Nat × List Bool :=
  (s.mode.width, s.mode.height, (List.range (s.mode.width * s.mode.height)).map fun j => Fb.cell s.fb j)

/-- Port `read_timers(machine)` (R230). -/
def portReadTimers (s : State) : Byte × Byte := (s.DT, s.ST)

/-- "the tone is on exactly while `ST ≠ 0`" (R226). -/
def toneOn (s : State) : Bool := s.ST != 0#8

/-- The result a state stands for (R107, R108). -/
def State.result (s : State) : StepResult :=
  match s.status with
  | .running => .continues
  | .halted => .halted
  | .faulted f => .fault f

/-- The inputs of the coming step put before all others; a stopped machine reads none (R107). -/
def State.offer (s : State) (input : StepInput) : State :=
  match s.status with
  | .running => { s with inputs := input :: s.inputs }
  | .halted => s
  | .faulted _ => s

/-- Port `step(machine, key_in)` with the draw `rand` (R100): the machine after it and the result. -/
def portStep (input : StepInput) (s : State) : State × StepResult :=
  match step (s.offer input) with
  | .next t => (t, t.result)
  | .fault f => (s, .fault f)
  | .refused _ => (s, .continues)

/-- One host action (R231). -/
def HostAction.apply : HostAction → State → State
  | .tickTimers, s => portTickTimers s
  | .setKey k p, s => portSetKey k p s
  | .ackRedraw, s => portAckRedraw s

/-- Host actions in the order given. -/
def applyActions (acts : List HostAction) (s : State) : State := acts.foldl (fun t a => a.apply t) s

/-- The machine after one turn of the driver. -/
def driveTurn (t : Turn) (s : State) : State := (portStep t.input (applyActions t.acts s)).1

/-- The machine after the driver's turns, in order. -/
def drive (turns : List Turn) (s : State) : State := turns.foldl (fun u t => driveTurn t u) s

end Sys2Proof.Machine
end

