-- ==== Sys2Proof/Safety.lean ====
section
/-! DEFINITION. What claims are stated in: the invariant of the machine, and what a safe run is. -/

namespace Sys2Proof.Machine

/-- A return address on the stack: "a value in 0x202..0x1000" (R30). -/
abbrev returnAddrOk (a : Word) : Prop := 0x202 ≤ a.toNat ∧ a.toNat ≤ 0x1000

/-- The invariant of the machine: memory is canonical and inside the address space (R60), pc is below 0x1100 (R20,
R25), the stack holds at most STACK_CAPACITY entries (R31), each a return address (R30), and in Standard mode the
cells past the screen are 0 (R38). -/
structure State.Inv (s : State) : Prop where
  mem : Memory.wf s.cfg s.mem
  pc : s.pc.toNat < 0x1100
  depth : s.sp ≤ s.cfg.stackCapacity.toNat
  entries : ∀ a ∈ s.stack, returnAddrOk a
  offscreen : s.mode = .standard → ∀ j, 2048 ≤ j → Fb.cell s.fb j = false

/-- The machine has not ended in a fault (R41, R250). -/
def State.safe (s : State) : Prop := ∀ f, s.status ≠ .faulted f

/-- A run under the driver's turns from `s` never ends in a fault. -/
def safeRun (turns : List Turn) (s : State) : Prop := ∀ k, (drive (turns.take k) s).safe

end Sys2Proof.Machine
end

