-- ==== Sys2Proof/Certificates/Slice0/Obligations.lean ====
section
/-! DEFINITION. The statements for the provers. Each `Obligations.<Name>` formalises what spec/ says an instruction or
the machine does; OBLIGATIONS.json lists them. Where a rule gives an instruction a word pattern, the statement says
that the pattern decodes to it. A sum `s.pc + 2` is a 16-bit sum; `AdvanceNeverWraps` says that it does not wrap
where a step runs. -/

open Sys2Proof Sys2Proof.Machine

namespace Sys2Proof.Statements

/-- Every byte of memory reads as before. -/
def SameMemory (s t : State) : Prop := ∀ a : Addr, t.readByte a = s.readByte a

/-- Every general register outside the list is unchanged. -/
def OtherRegs (s t : State) (written : List Reg) : Prop := ∀ z : Reg, z ∉ written → t.getV z = s.getV z

/-- The next step at `t` raises the fault `f` and changes nothing else of the spec's state (R211); of the model's own
fields of the inputs it says nothing. -/
def NextStepRaises (f : Fault) (t : State) : Prop :=
  ∃ u, step t = .next u ∧ u = { t with status := .faulted f, inputs := u.inputs, turn := u.turn }

/-- The next step at `t` raises PcOutOfRange with the pc of `t` (R101). -/
def NextStepLeavesRange (t : State) : Prop := NextStepRaises (.pcOutOfRange t.pc) t

/-- The fault condition of each instruction, from its own rule: R121, R122, R134, R135, R163, R192 to R198. -/
def faultCondition (i : Instr) (s : State) : Option Fault :=
  match i with
  | .call _ => if s.sp = s.cfg.stackCapacity.toNat then some (.stackOverflow s.pc) else none
  | .ret => if s.sp = 0 then some (.stackUnderflow s.pc) else none
  | .skp x | .sknp x => if (s.getV x).toNat > 0xF then some (.keyIndexOutOfRange (s.getV x)) else none
  | .drw _ _ n =>
    let nbytes := if n.toNat ≥ 1 then n.toNat else if s.mode = .extended then 32 else 0
    if nbytes > 0 ∧ s.I.toNat + nbytes - 1 > 0xFFF then
      some (.memoryOutOfRange (BitVec.ofNat 16 (s.I.toNat + nbytes - 1)))
    else none
  | .ldF x => if (s.getV x).toNat > 0xF then some (.fontDigitOutOfRange (s.getV x)) else none
  | .ldHf x => if (s.getV x).toNat > 9 then some (.fontDigitOutOfRange (s.getV x)) else none
  | .ldB _ => if s.I.toNat + 2 > 0xFFF then some (.memoryOutOfRange (BitVec.ofNat 16 (s.I.toNat + 2))) else none
  | .ldMemVx x | .ldVxMem x =>
    if s.I.toNat + x.toNat > 0xFFF then some (.memoryOutOfRange (BitVec.ofNat 16 (s.I.toNat + x.toNat))) else none
  | .ldRVx x | .ldVxR x => if x.toNat > 7 then some (.rplIndexOutOfRange x) else none
  | .scd _ | .cls | .scr | .scl | .exit | .low | .high => none
  | .jp _ | .seImm _ _ | .sneImm _ _ | .seReg _ _ | .ldImm _ _ | .addImm _ _ => none
  | .ldReg _ _ | .orReg _ _ | .andReg _ _ | .xorReg _ _ | .addReg _ _ | .subReg _ _ => none
  | .shr _ _ | .subn _ _ | .shl _ _ | .sneReg _ _ | .ldI _ | .jpV0 _ | .rnd _ _ => none
  | .ldVxDt _ | .ldVxK _ | .ldDtVx _ | .ldStVx _ | .addIVx _ => none

/-- The pc after an instruction (R26): unchanged where its fault condition holds, else by the instruction. -/
def pcAfter (i : Instr) (s : State) : Word :=
  match faultCondition i s with
  | some _ => s.pc
  | none =>
    match i with
    | .jp nnn | .call nnn => nnn.setWidth 16
    | .jpV0 nnn => nnn.setWidth 16 + (s.getV 0#4).setWidth 16
    | .ret => s.stack.getLast?.getD s.pc
    | .seImm x nn => if s.getV x = nn then s.pc + 4#16 else s.pc + 2#16
    | .sneImm x nn => if s.getV x ≠ nn then s.pc + 4#16 else s.pc + 2#16
    | .seReg x y => if s.getV x = s.getV y then s.pc + 4#16 else s.pc + 2#16
    | .sneReg x y => if s.getV x ≠ s.getV y then s.pc + 4#16 else s.pc + 2#16
    | .skp x => if s.key[(s.getV x).toNat]? = some true then s.pc + 4#16 else s.pc + 2#16
    | .sknp x => if s.key[(s.getV x).toNat]? = some false then s.pc + 4#16 else s.pc + 2#16
    | .ldVxK _ => if s.input.key = none then s.pc else s.pc + 2#16
    | .scd _ | .cls | .scr | .scl | .exit | .low | .high | .drw _ _ _ => s.pc + 2#16
    | .ldImm _ _ | .addImm _ _ | .ldReg _ _ | .orReg _ _ | .andReg _ _ | .xorReg _ _ => s.pc + 2#16
    | .addReg _ _ | .subReg _ _ | .shr _ _ | .subn _ _ | .shl _ _ | .rnd _ _ | .ldI _ => s.pc + 2#16
    | .ldVxDt _ | .ldDtVx _ | .ldStVx _ | .addIVx _ | .ldF _ | .ldHf _ => s.pc + 2#16
    | .ldB _ | .ldMemVx _ | .ldVxMem _ | .ldRVx _ | .ldVxR _ => s.pc + 2#16

/-- Whether an instruction may write register `z`: as its destination (R22) or as the flag VF (R23). -/
def mayWrite (i : Instr) (z : Reg) : Prop :=
  match i with
  | .ldImm x _ | .addImm x _ | .rnd x _ | .ldVxDt x | .ldVxK x => z = x
  | .ldReg x _ | .orReg x _ | .andReg x _ | .xorReg x _ => z = x
  | .addReg x _ | .subReg x _ | .shr x _ | .subn x _ | .shl x _ => z = x ∨ z = 0xF#4
  | .drw _ _ _ | .addIVx _ => z = 0xF#4
  | .ldVxMem x | .ldVxR x => z.toNat ≤ x.toNat
  | .scd _ | .cls | .ret | .scr | .scl | .exit | .low | .high => False
  | .jp _ | .call _ | .seImm _ _ | .sneImm _ _ | .seReg _ _ | .sneReg _ _ | .ldI _ | .jpV0 _ => False
  | .skp _ | .sknp _ | .ldDtVx _ | .ldStVx _ | .ldF _ | .ldHf _ | .ldB _ | .ldMemVx _ | .ldRVx _ => False

/-- Whether an instruction writes the framebuffer (R35, R39). -/
def writesFb (i : Instr) : Prop :=
  i = .cls ∨ i = .scr ∨ i = .scl ∨ i = .low ∨ i = .high ∨ (∃ n, i = .scd n) ∨ ∃ x y n, i = .drw x y n

/-- The bit of sprite pixel (c, r) from the bytes of memory at I (R161): bit `7 - c` of byte r, or for N = 0 bit
`15 - c` of the two bytes of row r, the lower-addressed one on the left. -/
def spriteBitAt (s : State) (n : Nibble) (c r : Nat) : Bool :=
  if n = 0#4 then
    ((s.readByte (s.I + BitVec.ofNat 12 (2 * r))).toNat * 256 +
      (s.readByte (s.I + BitVec.ofNat 12 (2 * r + 1))).toNat).testBit (15 - c)
  else (s.readByte (s.I + BitVec.ofNat 12 r)).toNat.testBit (7 - c)

/-- The number of pixel columns and rows of a sprite in a display mode (R161). -/
def spriteSize (m : Mode) (n : Nibble) : Nat × Nat :=
  if n = 0#4 then (match m with
    | .extended => (16, 16)
    | .standard => (0, 0))
  else (8, n.toNat)

/-- Whether the sprite of `DRW VX, VY, N` has a 1 at screen position (px, py), its origin wrapped to the screen
(R160, R161). -/
def spriteCovers (s : State) (x y : Reg) (n : Nibble) (px py : Nat) : Prop :=
  ∃ c r, c < (spriteSize s.mode n).1 ∧ r < (spriteSize s.mode n).2 ∧
    px = (s.getV x).toNat % s.mode.width + c ∧ py = (s.getV y).toNat % s.mode.height + r ∧
    spriteBitAt s n c r = true

/-- The addresses of the whole sprite exist (R163). -/
def spriteInMemory (s : State) (n : Nibble) : Prop :=
  (n ≠ 0#4 → s.I.toNat + n.toNat - 1 ≤ 0xFFF) ∧ (n = 0#4 → s.mode = .extended → s.I.toNat + 31 ≤ 0xFFF)

end Sys2Proof.Statements

open Sys2Proof.Statements

/-! ### Encoding -/

/-- R84, R85: the decoder and the encoder are inverse to each other: a word decodes to `i` exactly when it is the word
of `i`, with every operand at every value. -/
def Obligations.DecodeIsInverseOfEncode : Prop :=
  ∀ (w : Word) (i : Instr), decode w = some i ↔ encode i = w

/-- R85, R86: "Every word matching (w & mask) = match is that instruction", and a word that matches no row of the map
is UnknownInstruction. -/
def Obligations.OpcodeMapDecidesDecoding : Prop :=
  ∀ w : Word,
    (∀ r ∈ opcodeMap, w &&& r.mask = r.value → ∃ i, decode w = some i ∧ i.mnemonic = r.mnemonic) ∧
    ((∀ r ∈ opcodeMap, w &&& r.mask ≠ r.value) → decode w = none)

/-- R90 (an inference the spec marks as derived): no word matches two rows of the opcode map. -/
def Obligations.OpcodeRowsAreDisjoint : Prop :=
  opcodeMap.length = 43 ∧
    ∀ (w : Word) (r r' : OpcodeRow), r ∈ opcodeMap → r' ∈ opcodeMap →
      w &&& r.mask = r.value → w &&& r'.mask = r'.value → r = r'

/-- Words written out from R85's patterns decode to their instructions, and unmapped ones (R86) to none. -/
def Obligations.SampleWordsDecode : Prop :=
  decode 0x00C2#16 = some (.scd 2) ∧ decode 0x00EE#16 = some .ret ∧ decode 0x1208#16 = some (.jp 0x208) ∧
  decode 0x3307#16 = some (.seImm 3 0x07) ∧ decode 0x8F15#16 = some (.subReg 0xF 1) ∧
  decode 0xA2F0#16 = some (.ldI 0x2F0) ∧ decode 0xC30F#16 = some (.rnd 3 0x0F) ∧
  decode 0xD01A#16 = some (.drw 0 1 0xA) ∧ decode 0xE09E#16 = some (.skp 0) ∧ decode 0xF733#16 = some (.ldB 7) ∧
  decode 0x0000#16 = none ∧ decode 0x5111#16 = none ∧ decode 0x8008#16 = none ∧ decode 0xF000#16 = none

/-! ### The step cycle -/

/-- R20: the record is the whole state of the machine. Two machines with the same record and the same parameters, called
with the same inputs and host actions, give the same result and the same record, whatever stands in the environment's
own fields (log entry 21). -/
def Obligations.RecordIsTheWholeState : Prop :=
  ∀ (s t : State), s.toRecord = t.toRecord → s.cfg = t.cfg →
    (∀ input, (portStep input s).2 = (portStep input t).2 ∧
      (portStep input s).1.toRecord = (portStep input t).1.toRecord) ∧
    (∀ turns : List Turn, (drive turns s).toRecord = (drive turns t).toRecord ∧
      (drive turns s).cfg = s.cfg)

/-- R109: a running machine whose pc is in the fetchable range and whose fetched word decodes to `i` steps to what
`exec i` answers at that state, with the step's inputs used up (the model's own fields, log entry 2) and nothing else
around it. -/
def Obligations.StepRunsTheDecodedInstruction : Prop :=
  ∀ (s : State) (i : Instr) (t : State), s.status = .running → s.fetchable → decode s.fetchWord = some i →
    exec i s = .next t → step s = .next t.consumeInput

/-- R102, R61: the fetch is `mem[pc]·256 + mem[pc+1]`. -/
def Obligations.FetchIsBigEndian : Prop :=
  ∀ (s : State) (a b : Addr), s.fetchable → a.toNat = s.pc.toNat → b.toNat = s.pc.toNat + 1 →
    s.fetchWord.toNat = (s.readByte a).toNat * 256 + (s.readByte b).toNat

/-- R101, R215: with pc below 0x200 or above 0xFFE a running machine raises PcOutOfRange(pc) and changes nothing
else, whatever memory holds. -/
def Obligations.FetchOutsideRangeFaults : Prop :=
  ∀ s : State, s.status = .running → s.pc.toNat < 0x200 ∨ s.pc.toNat > 0xFFE → NextStepLeavesRange s

/-- R103: a fetched word that decodes to nothing raises UnknownInstruction(w, pc) and changes nothing else. -/
def Obligations.UnknownWordFaults : Prop :=
  ∀ s : State, s.status = .running → s.fetchable → decode s.fetchWord = none →
    NextStepRaises (.unknownInstruction s.fetchWord s.pc) s

/-- R107: a machine that is not Running changes nothing and gives the stored outcome, with any inputs, and no turns of
the driver leave that status. (How `step` words the stored outcome is the model's choice, log entry 1; the result of
the port is the spec's.) -/
def Obligations.StoppedMachineGivesStoredOutcome : Prop :=
  ∀ (s : State) (input : StepInput),
    (s.status = .halted → step s = .next s ∧ portStep input s = (s, .halted)) ∧
    (∀ f, s.status = .faulted f → step s = .fault f ∧ portStep input s = (s, .fault f)) ∧
    (∀ turns : List Turn, s.status ≠ .running → (drive turns s).status = s.status)

/-- R108: the result of a step of a running machine: Halted exactly for 00FD, Fault exactly when the step raised that
fault, Continue exactly when the machine still runs. -/
def Obligations.StepResultTellsHowTheRunStands : Prop :=
  ∀ (s : State) (input : StepInput), s.status = .running →
    ((portStep input s).2 = .halted ↔ s.fetchable ∧ decode s.fetchWord = some .exit) ∧
    (∀ f, (portStep input s).2 = .fault f ↔ (portStep input s).1.status = .faulted f) ∧
    ((portStep input s).2 = .continues ↔ (portStep input s).1.status = .running)

/-- R100: the step port runs the decoded instruction with the inputs it is called with, and uses up just those. That
inputs are held in a queue of State is the model's choice (log entry 2). -/
def Obligations.PortStepSuppliesItsInputs : Prop :=
  ∀ (s : State) (input : StepInput) (i : Instr), s.status = .running → s.fetchable → decode s.fetchWord = some i →
    ∃ t, exec i { s with inputs := input :: s.inputs } = .next t ∧ (portStep input s).1 = t.consumeInput ∧
      (portStep input s).1.inputs = s.inputs

/-- R106: `key_in` is read only by FX0A and `rand` only by CXNN: with other inputs of that kind an instruction gives
the same state but for the inputs themselves. -/
def Obligations.OnlyFx0aAndCxnnReadTheInputs : Prop :=
  ∀ (i : Instr) (s t : State) (a b : StepInput) (rest : List StepInput),
    (∀ x, i = .ldVxK x → a.key = b.key) → (∀ x nn, i = .rnd x nn → a.rand = b.rand) →
    exec i { s with inputs := a :: rest } = .next t →
    exec i { s with inputs := b :: rest } = .next { t with inputs := b :: rest }

/-- R104: "No addition here wraps": where a step runs, pc + 2 and pc + 4 are the plain sums, and so is BNNN's target
everywhere. -/
def Obligations.AdvanceNeverWraps : Prop :=
  (∀ s : State, s.fetchable → (s.pc + 2#16).toNat = s.pc.toNat + 2 ∧ (s.pc + 4#16).toNat = s.pc.toNat + 4) ∧
  (∀ (s : State) (nnn : Addr), (targetV0 s nnn).toNat = nnn.toNat + (s.getV 0#4).toNat)

/-! ### Invariants and rules of the whole machine -/

/-- R43: the values the spec gives for reset; memory is that of R63 with no program, the fonts being the machine's
parameters. -/
def Obligations.ResetValues : Prop :=
  (∀ x, State.reset.getV x = 0#8) ∧ State.reset.I = 0#12 ∧ State.reset.pc = 0x200#16 ∧ State.reset.stack = [] ∧
  State.reset.sp = 0 ∧ State.reset.DT = 0#8 ∧ State.reset.ST = 0#8 ∧ (∀ k, k < 16 → State.reset.key[k]? = some false) ∧
  (∀ i, i < 8 → State.reset.rpl[i]? = some 0#8) ∧ (∀ j, j < 8192 → Fb.cell State.reset.fb j = false) ∧
  State.reset.mode = .standard ∧ State.reset.redraw = false ∧ State.reset.status = .running ∧
  (∀ (d r : Nat) (hd : d < 16) (hr : r < 5),
    State.reset.readByte (BitVec.ofNat 12 (5 * d + r)) = Config.default.smallFont[d][r]) ∧
  (∀ (d r : Nat) (hd : d < 10) (hr : r < 10),
    State.reset.readByte (BitVec.ofNat 12 (0x50 + 10 * d + r)) = Config.default.bigFont[d][r]) ∧
  (∀ a : Addr, 0xB4 ≤ a.toNat → State.reset.readByte a = 0#8)

/-- R63, R240, R241: `load` of an image of at most 3584 bytes makes a machine whose memory holds the fonts, zeros and
the image from 0x200 on and whose every other field has its reset value; a longer image is rejected whole. -/
def Obligations.LoadMakesTheResetMachine : Prop :=
  ∀ (c : Config) (image : List Byte),
    (image.length ≤ 3584 → ∃ m, portLoad c image = .ok m ∧
      m = { State.reset with cfg := c, mem := m.mem } ∧
      (∀ (d r : Nat) (hd : d < 16) (hr : r < 5), m.readByte (BitVec.ofNat 12 (5 * d + r)) = c.smallFont[d][r]) ∧
      (∀ (d r : Nat) (hd : d < 10) (hr : r < 10),
        m.readByte (BitVec.ofNat 12 (0x50 + 10 * d + r)) = c.bigFont[d][r]) ∧
      (∀ a : Addr, 0xB4 ≤ a.toNat → a.toNat < 0x200 → m.readByte a = 0#8) ∧
      (∀ (k : Nat) (hk : k < image.length), m.readByte (BitVec.ofNat 12 (0x200 + k)) = image[k]) ∧
      (∀ a : Addr, 0x200 + image.length ≤ a.toNat → m.readByte a = 0#8)) ∧
    (image.length > 3584 → portLoad c image = .error .programTooLarge)

/-- The invariant of the machine holds after reset (R43, R38). -/
def Obligations.InvariantHoldsAtReset : Prop := State.reset.Inv

/-- Every step from a state with the invariant leads to a state with it: canonical memory (R60), pc below 0x1100
(R20, R25), a bounded stack (R31) of return addresses (R30), blank cells off the Standard screen (R38). -/
def Obligations.StepKeepsTheInvariant : Prop :=
  ∀ s t : State, s.Inv → step s = .next t → t.Inv

/-- Every turn of the driver (any host actions, then a step with any inputs, R231) from a state with the invariant leads
to a state with it. -/
def Obligations.EveryTurnKeepsTheInvariant : Prop :=
  ∀ (turn : Turn) (s : State), s.Inv → (driveTurn turn s).Inv

/-- From any machine `load` makes, after any turns of any driver (host actions and steps with any inputs, R231), the
invariant holds. -/
def Obligations.InvariantHoldsUnderEveryDriver : Prop :=
  ∀ (c : Config) (image : List Byte) (m : State) (turns : List Turn),
    portLoad c image = .ok m → (drive turns m).Inv

/-- R26, R109: in every state every instruction answers a next state, and its pc is the one R26 gives: the target, the
popped address, pc + 4 for a skip, pc itself for FX0A with no key and for a fault, else pc + 2. That a faulting
instruction answers a next state, with its status Faulted, is the model's choice (log entry 1). The premise on the
stack depth is R31's. -/
def Obligations.EveryInstructionHasANextStateAtItsPc : Prop :=
  ∀ (i : Instr) (s : State), ∃ t, exec i s = .next t ∧
    (s.sp ≤ s.cfg.stackCapacity.toNat → t.pc = pcAfter i s)

/-- R213, R214, R216 to R219: on a running machine an instruction raises exactly the fault of its own rule, under
exactly that rule's condition, and then nothing but the status changes; without the condition the machine is not
faulted after it. The premise on the stack depth is R31's. -/
def Obligations.FaultsAreExactlyTheRulesAndPrecise : Prop :=
  ∀ (i : Instr) (s : State), s.status = .running → s.sp ≤ s.cfg.stackCapacity.toNat →
    (∀ f, faultCondition i s = some f → exec i s = .next { s with status := .faulted f }) ∧
    (faultCondition i s = none → ∃ t, exec i s = .next t ∧ ∀ f, t.status ≠ .faulted f)

/-- R28, R29, R31, R32, R33, R34, R35, R36, R39, R60 and R41, the writers of each field: an instruction that changes
a field is one of those the spec names for it, none changes the keypad or the parameters. -/
def Obligations.EachFieldHasOnlyItsWriters : Prop :=
  ∀ (i : Instr) (s t : State), exec i s = .next t →
    (t.I ≠ s.I → (∃ n, i = .ldI n) ∨ (∃ x, i = .addIVx x) ∨ (∃ x, i = .ldF x) ∨ ∃ x, i = .ldHf x) ∧
    (t.rpl ≠ s.rpl → ∃ x, i = .ldRVx x) ∧
    (t.stack ≠ s.stack → i = .ret ∨ ∃ n, i = .call n) ∧
    (t.mem ≠ s.mem → (∃ x, i = .ldB x) ∨ ∃ x, i = .ldMemVx x) ∧
    (t.DT ≠ s.DT → ∃ x, i = .ldDtVx x) ∧ (t.ST ≠ s.ST → ∃ x, i = .ldStVx x) ∧
    (t.fb ≠ s.fb → writesFb i) ∧ (t.redraw ≠ s.redraw → writesFb i ∧ t.redraw = true) ∧
    (t.mode ≠ s.mode → i = .low ∨ i = .high) ∧
    (t.status ≠ s.status → i = .exit ∨ ∃ f, t.status = .faulted f) ∧
    t.key = s.key ∧ t.cfg = s.cfg ∧ t.inputs = s.inputs ∧ t.turn = s.turn

/-- R22, R23: an instruction that changes a general register is one that has it as a destination, or a flag-writing
one and the register is VF. -/
def Obligations.EachRegisterHasOnlyItsWriters : Prop :=
  ∀ (i : Instr) (s t : State) (z : Reg), exec i s = .next t → t.getV z ≠ s.getV z → mayWrite i z

/-! ### Jumps, calls and returns -/

/-- R120: `JP NNN`. -/
def Obligations.JumpGoesToNNN : Prop :=
  ∀ (nnn : Addr) (s : State),
    decode (0x1#4 ++ nnn) = some (.jp nnn) ∧
    ∃ t, exec (.jp nnn) s = .next t ∧ t.pc.toNat = nnn.toNat ∧ t = { s with pc := t.pc } ∧ SameMemory s t ∧
      (s.status = .running → nnn.toNat < 0x200 ∨ nnn = 0xFFF#12 → NextStepLeavesRange t)

/-- R123: `JP V0, NNN`; the sum is not masked. -/
def Obligations.JumpWithOffsetAddsV0 : Prop :=
  ∀ (nnn : Addr) (s : State),
    decode (0xB#4 ++ nnn) = some (.jpV0 nnn) ∧
    ∃ t, exec (.jpV0 nnn) s = .next t ∧ t.pc.toNat = nnn.toNat + (s.getV 0#4).toNat ∧ t = { s with pc := t.pc } ∧
      SameMemory s t ∧ t.pc.toNat ≤ 0x10FE ∧
      (s.status = .running → t.pc.toNat < 0x200 ∨ t.pc.toNat > 0xFFE → NextStepLeavesRange t)

/-- R121: `CALL NNN` pushes pc + 2 and jumps, or raises StackOverflow on a full stack; the premise on the depth is
R31's. -/
def Obligations.CallPushesTheReturnAddress : Prop :=
  ∀ (nnn : Addr) (s : State), s.sp ≤ s.cfg.stackCapacity.toNat →
    decode (0x2#4 ++ nnn) = some (.call nnn) ∧
    (s.sp < s.cfg.stackCapacity.toNat → ∃ t, exec (.call nnn) s = .next t ∧ t.pc.toNat = nnn.toNat ∧
      t.stack = s.stack ++ [s.pc + 2#16] ∧ t.sp = s.sp + 1 ∧
      t = { s with pc := t.pc, stack := t.stack } ∧ SameMemory s t) ∧
    (s.sp = s.cfg.stackCapacity.toNat →
      exec (.call nnn) s = .next { s with status := .faulted (.stackOverflow s.pc) })

/-- R122: `RET` pops the return address into pc, or raises StackUnderflow on an empty stack. -/
def Obligations.ReturnPopsTheReturnAddress : Prop :=
  decode 0x00EE#16 = some .ret ∧
  (∀ (s : State) (below : List Word) (a : Word), s.stack = below ++ [a] →
    ∃ t, exec .ret s = .next t ∧ t.pc = a ∧ t.stack = below ∧ t.sp + 1 = s.sp ∧
      t = { s with pc := t.pc, stack := t.stack } ∧ SameMemory s t) ∧
  (∀ s : State, s.sp = 0 → exec .ret s = .next { s with status := .faulted (.stackUnderflow s.pc) })

/-- The call/return pair (spec/95_test_vectors.md W-8): a RET at the depth a CALL left goes to the instruction after
the CALL and leaves the stack as it was before the CALL. -/
def Obligations.CallThenReturnComesBack : Prop :=
  ∀ (nnn : Addr) (s t u : State), s.sp < s.cfg.stackCapacity.toNat → exec (.call nnn) s = .next t →
    u.stack = t.stack →
    ∃ v, exec .ret u = .next v ∧ v.pc = s.pc + 2#16 ∧ v.stack = s.stack ∧ v = { u with pc := v.pc, stack := v.stack }

/-! ### Skips -/

/-- R130, R131: `SE VX, NN` and `SNE VX, NN`. -/
def Obligations.SkipsOnImmediate : Prop :=
  ∀ (x : Reg) (nn : Byte) (s : State),
    decode (0x3#4 ++ x ++ nn) = some (.seImm x nn) ∧ decode (0x4#4 ++ x ++ nn) = some (.sneImm x nn) ∧
    (∃ t, exec (.seImm x nn) s = .next t ∧
      t = { s with pc := if s.getV x = nn then s.pc + 4#16 else s.pc + 2#16 } ∧ SameMemory s t) ∧
    (∃ t, exec (.sneImm x nn) s = .next t ∧
      t = { s with pc := if s.getV x ≠ nn then s.pc + 4#16 else s.pc + 2#16 } ∧ SameMemory s t)

/-- R132, R133: `SE VX, VY` and `SNE VX, VY`. -/
def Obligations.SkipsOnRegisters : Prop :=
  ∀ (x y : Reg) (s : State),
    decode (0x5#4 ++ x ++ y ++ 0x0#4) = some (.seReg x y) ∧ decode (0x9#4 ++ x ++ y ++ 0x0#4) = some (.sneReg x y) ∧
    (∀ n : Nibble, n ≠ 0#4 → decode (0x5#4 ++ x ++ y ++ n) = none ∧ decode (0x9#4 ++ x ++ y ++ n) = none) ∧
    (∃ t, exec (.seReg x y) s = .next t ∧
      t = { s with pc := if s.getV x = s.getV y then s.pc + 4#16 else s.pc + 2#16 } ∧ SameMemory s t) ∧
    (∃ t, exec (.sneReg x y) s = .next t ∧
      t = { s with pc := if s.getV x ≠ s.getV y then s.pc + 4#16 else s.pc + 2#16 } ∧ SameMemory s t)

/-- R134, R135, R217: `SKP VX` and `SKNP VX` on the keypad array, and KeyIndexOutOfRange for VX > 15. -/
def Obligations.SkipsOnKeys : Prop :=
  ∀ (x : Reg) (s : State),
    decode (0xE#4 ++ x ++ 0x9E#8) = some (.skp x) ∧ decode (0xE#4 ++ x ++ 0xA1#8) = some (.sknp x) ∧
    (∀ pressed, s.key[(s.getV x).toNat]? = some pressed →
      (∃ t, exec (.skp x) s = .next t ∧
        t = { s with pc := if pressed = true then s.pc + 4#16 else s.pc + 2#16 } ∧ SameMemory s t) ∧
      (∃ t, exec (.sknp x) s = .next t ∧
        t = { s with pc := if pressed = false then s.pc + 4#16 else s.pc + 2#16 } ∧ SameMemory s t)) ∧
    ((s.getV x).toNat > 0xF →
      exec (.skp x) s = .next { s with status := .faulted (.keyIndexOutOfRange (s.getV x)) } ∧
      exec (.sknp x) s = .next { s with status := .faulted (.keyIndexOutOfRange (s.getV x)) })

/-! ### Register loads, ALU and random -/

/-- R140, R142: `LD VX, NN` and `LD VX, VY`. -/
def Obligations.RegisterLoads : Prop :=
  ∀ (x y : Reg) (nn : Byte) (s : State),
    decode (0x6#4 ++ x ++ nn) = some (.ldImm x nn) ∧ decode (0x8#4 ++ x ++ y ++ 0x0#4) = some (.ldReg x y) ∧
    (∃ t, exec (.ldImm x nn) s = .next t ∧ t.getV x = nn ∧ OtherRegs s t [x] ∧
      t = { s with V := t.V, pc := s.pc + 2#16 } ∧ SameMemory s t) ∧
    (∃ t, exec (.ldReg x y) s = .next t ∧ t.getV x = s.getV y ∧ OtherRegs s t [x] ∧
      t = { s with V := t.V, pc := s.pc + 2#16 } ∧ SameMemory s t)

/-- R141: `ADD VX, NN` wraps modulo 256 and leaves VF alone. -/
def Obligations.AddImmediateSetsNoFlag : Prop :=
  ∀ (x : Reg) (nn : Byte) (s : State),
    decode (0x7#4 ++ x ++ nn) = some (.addImm x nn) ∧
    ∃ t, exec (.addImm x nn) s = .next t ∧ (t.getV x).toNat = ((s.getV x).toNat + nn.toNat) % 256 ∧
      OtherRegs s t [x] ∧ t = { s with V := t.V, pc := s.pc + 2#16 } ∧ SameMemory s t

/-- R143, R144, R145: OR, AND and XOR, bit by bit, with VF unchanged unless it is the destination. -/
def Obligations.BitwiseOperations : Prop :=
  ∀ (x y : Reg) (s : State),
    decode (0x8#4 ++ x ++ y ++ 0x1#4) = some (.orReg x y) ∧ decode (0x8#4 ++ x ++ y ++ 0x2#4) = some (.andReg x y) ∧
    decode (0x8#4 ++ x ++ y ++ 0x3#4) = some (.xorReg x y) ∧
    (∃ t, exec (.orReg x y) s = .next t ∧
      (∀ b, (t.getV x).getLsbD b = ((s.getV x).getLsbD b || (s.getV y).getLsbD b)) ∧
      OtherRegs s t [x] ∧ t = { s with V := t.V, pc := s.pc + 2#16 } ∧ SameMemory s t) ∧
    (∃ t, exec (.andReg x y) s = .next t ∧
      (∀ b, (t.getV x).getLsbD b = ((s.getV x).getLsbD b && (s.getV y).getLsbD b)) ∧
      OtherRegs s t [x] ∧ t = { s with V := t.V, pc := s.pc + 2#16 } ∧ SameMemory s t) ∧
    (∃ t, exec (.xorReg x y) s = .next t ∧
      (∀ b, (t.getV x).getLsbD b = ((s.getV x).getLsbD b ^^ (s.getV y).getLsbD b)) ∧
      OtherRegs s t [x] ∧ t = { s with V := t.V, pc := s.pc + 2#16 } ∧ SameMemory s t)

/-- R148: `ADD VX, VY`: the sum modulo 256 and the carry in VF, written last. -/
def Obligations.AddSetsCarry : Prop :=
  ∀ (x y : Reg) (s : State),
    decode (0x8#4 ++ x ++ y ++ 0x4#4) = some (.addReg x y) ∧
    ∃ t, exec (.addReg x y) s = .next t ∧
      (x ≠ 0xF#4 → (t.getV x).toNat = ((s.getV x).toNat + (s.getV y).toNat) % 256) ∧
      t.getV 0xF#4 = (if (s.getV x).toNat + (s.getV y).toNat ≥ 0x100 then 1#8 else 0#8) ∧
      OtherRegs s t [x, 0xF#4] ∧ t = { s with V := t.V, pc := s.pc + 2#16 } ∧ SameMemory s t

/-- R147, R149, R151: `SUB VX, VY` and `SUBN VX, VY`: the absolute difference, and in VF, written last, 1 iff there
is no borrow; VX is the minuend of SUB, VY of SUBN. -/
def Obligations.SubtractionsStoreTheAbsoluteDifference : Prop :=
  ∀ (x y : Reg) (s : State),
    decode (0x8#4 ++ x ++ y ++ 0x5#4) = some (.subReg x y) ∧ decode (0x8#4 ++ x ++ y ++ 0x7#4) = some (.subn x y) ∧
    (∃ t, exec (.subReg x y) s = .next t ∧
      (x ≠ 0xF#4 → ((t.getV x).toNat : Int) = |((s.getV x).toNat : Int) - ((s.getV y).toNat : Int)|) ∧
      t.getV 0xF#4 = (if (s.getV x).toNat ≥ (s.getV y).toNat then 1#8 else 0#8) ∧
      OtherRegs s t [x, 0xF#4] ∧ t = { s with V := t.V, pc := s.pc + 2#16 } ∧ SameMemory s t) ∧
    (∃ t, exec (.subn x y) s = .next t ∧
      (x ≠ 0xF#4 → ((t.getV x).toNat : Int) = |((s.getV y).toNat : Int) - ((s.getV x).toNat : Int)|) ∧
      t.getV 0xF#4 = (if (s.getV y).toNat ≥ (s.getV x).toNat then 1#8 else 0#8) ∧
      OtherRegs s t [x, 0xF#4] ∧ t = { s with V := t.V, pc := s.pc + 2#16 } ∧ SameMemory s t)

/-- R150, R152: the shifts of VX by one, the bit shifted out in VF, written last; VY is ignored. -/
def Obligations.ShiftsPutTheLostBitInVF : Prop :=
  ∀ (x y : Reg) (s : State),
    decode (0x8#4 ++ x ++ y ++ 0x6#4) = some (.shr x y) ∧ decode (0x8#4 ++ x ++ y ++ 0xE#4) = some (.shl x y) ∧
    (∃ t, exec (.shr x y) s = .next t ∧
      (x ≠ 0xF#4 → (t.getV x).toNat = (s.getV x).toNat / 2) ∧ (t.getV 0xF#4).toNat = (s.getV x).toNat % 2 ∧
      OtherRegs s t [x, 0xF#4] ∧ t = { s with V := t.V, pc := s.pc + 2#16 } ∧ SameMemory s t) ∧
    (∃ t, exec (.shl x y) s = .next t ∧
      (x ≠ 0xF#4 → (t.getV x).toNat = (s.getV x).toNat * 2 % 256) ∧ (t.getV 0xF#4).toNat = (s.getV x).toNat / 128 ∧
      OtherRegs s t [x, 0xF#4] ∧ t = { s with V := t.V, pc := s.pc + 2#16 } ∧ SameMemory s t)

/-- R153: `RND VX, NN`: the draw masked by NN; whatever byte the driver draws is the outcome. -/
def Obligations.RandomIsTheDrawMasked : Prop :=
  ∀ (x : Reg) (nn r : Byte) (key : Option Nibble) (rest : List StepInput) (s : State),
    decode (0xC#4 ++ x ++ nn) = some (.rnd x nn) ∧
    (∃ t, exec (.rnd x nn) s = .next t ∧ t.getV x = s.input.rand &&& nn ∧ OtherRegs s t [x] ∧
      t = { s with V := t.V, pc := s.pc + 2#16 } ∧ SameMemory s t) ∧
    (∃ t, exec (.rnd x nn) { s with inputs := ⟨key, r⟩ :: rest } = .next t ∧ t.getV x = r &&& nn)

/-! ### Display -/

/-- R160, R161, R162, R163: `DRW VX, VY, N`. Every cell on the screen is XORed with the sprite, cells off the screen
stay, VF tells whether a cell went from 1 to 0; a sprite with no rows (N = 0 in Standard mode) changes no cell. A
sprite whose last byte lies beyond 0xFFF raises MemoryOutOfRange with that byte's address, clipped rows included. -/
def Obligations.DrawXorsTheClippedSprite : Prop :=
  ∀ (x y : Reg) (n : Nibble) (s : State),
    decode (0xD#4 ++ x ++ y ++ n) = some (.drw x y n) ∧
    (spriteInMemory s n → ∃ t, exec (.drw x y n) s = .next t ∧
      (∀ px py, px < s.mode.width → py < s.mode.height →
        (spriteCovers s x y n px py → t.pixel px py = !s.pixel px py) ∧
        (¬ spriteCovers s x y n px py → t.pixel px py = s.pixel px py)) ∧
      (∀ j, s.mode.width * s.mode.height ≤ j → Fb.cell t.fb j = Fb.cell s.fb j) ∧
      ((∃ px py, px < s.mode.width ∧ py < s.mode.height ∧ s.pixel px py = true ∧ t.pixel px py = false) →
        t.getV 0xF#4 = 1#8) ∧
      ((¬ ∃ px py, px < s.mode.width ∧ py < s.mode.height ∧ s.pixel px py = true ∧ t.pixel px py = false) →
        t.getV 0xF#4 = 0#8) ∧
      OtherRegs s t [0xF#4] ∧
      t = { s with V := t.V, fb := t.fb, redraw := true, pc := s.pc + 2#16 } ∧ SameMemory s t) ∧
    (n ≠ 0#4 → s.I.toNat + n.toNat - 1 > 0xFFF → exec (.drw x y n) s =
      .next { s with status := .faulted (.memoryOutOfRange (BitVec.ofNat 16 (s.I.toNat + n.toNat - 1))) }) ∧
    (n = 0#4 → s.mode = .extended → s.I.toNat + 31 > 0xFFF → exec (.drw x y n) s =
      .next { s with status := .faulted (.memoryOutOfRange (BitVec.ofNat 16 (s.I.toNat + 31))) })

/-- R171 (an inference the spec marks as derived): drawing the same sprite twice, X and Y not VF, restores the
framebuffer, and the second VF is 1 iff the first draw set some cell. -/
def Obligations.DrawTwiceRestoresTheScreen : Prop :=
  ∀ (x y : Reg) (n : Nibble) (s t : State), x ≠ 0xF#4 → y ≠ 0xF#4 → spriteInMemory s n →
    exec (.drw x y n) s = .next t →
    ∃ u, exec (.drw x y n) t = .next u ∧ u.fb = s.fb ∧
      (u.getV 0xF#4 = 1#8 ↔ ∃ px py, px < s.mode.width ∧ py < s.mode.height ∧ spriteCovers s x y n px py ∧
        s.pixel px py = false)

/-- R164: `CLS` clears all 8192 cells in either mode. -/
def Obligations.ClearZeroesEveryCell : Prop :=
  decode 0x00E0#16 = some .cls ∧
  ∀ s : State, ∃ t, exec .cls s = .next t ∧ (∀ j, j < 8192 → Fb.cell t.fb j = false) ∧
    t = { s with fb := t.fb, redraw := true, pc := s.pc + 2#16 } ∧ SameMemory s t

/-- R165: `SCD N`: `new(x, y) = (y ≥ N) ? old(x, y − N) : 0`. -/
def Obligations.ScrollDownMovesRows : Prop :=
  ∀ (n : Nibble) (s : State),
    decode (0x00C#12 ++ n) = some (.scd n) ∧
    ∃ t, exec (.scd n) s = .next t ∧
      (∀ x y, x < s.mode.width → y < s.mode.height →
        t.pixel x y = if y ≥ n.toNat then s.pixel x (y - n.toNat) else false) ∧
      (∀ j, s.mode.width * s.mode.height ≤ j → Fb.cell t.fb j = Fb.cell s.fb j) ∧
      t = { s with fb := t.fb, redraw := true, pc := s.pc + 2#16 } ∧ SameMemory s t

/-- R166, R167: `SCR` and `SCL`: `new(x, y) = (x ≥ 4) ? old(x − 4, y) : 0` and
`new(x, y) = (x + 4 < W) ? old(x + 4, y) : 0`. -/
def Obligations.ScrollSidewaysMovesColumns : Prop :=
  decode 0x00FB#16 = some .scr ∧ decode 0x00FC#16 = some .scl ∧
  ∀ s : State,
    (∃ t, exec .scr s = .next t ∧
      (∀ x y, x < s.mode.width → y < s.mode.height →
        t.pixel x y = if x ≥ 4 then s.pixel (x - 4) y else false) ∧
      (∀ j, s.mode.width * s.mode.height ≤ j → Fb.cell t.fb j = Fb.cell s.fb j) ∧
      t = { s with fb := t.fb, redraw := true, pc := s.pc + 2#16 } ∧ SameMemory s t) ∧
    (∃ t, exec .scl s = .next t ∧
      (∀ x y, x < s.mode.width → y < s.mode.height →
        t.pixel x y = if x + 4 < s.mode.width then s.pixel (x + 4) y else false) ∧
      (∀ j, s.mode.width * s.mode.height ≤ j → Fb.cell t.fb j = Fb.cell s.fb j) ∧
      t = { s with fb := t.fb, redraw := true, pc := s.pc + 2#16 } ∧ SameMemory s t)

/-- R169, R170: `LOW` and `HIGH` set the mode and clear every cell, even when the mode does not change. -/
def Obligations.ModeSwitchClearsTheScreen : Prop :=
  decode 0x00FE#16 = some .low ∧ decode 0x00FF#16 = some .high ∧
  ∀ s : State,
    (∃ t, exec .low s = .next t ∧ t.mode = .standard ∧ t.mode.width = 64 ∧ t.mode.height = 32 ∧
      (∀ j, j < 8192 → Fb.cell t.fb j = false) ∧
      t = { s with mode := .standard, fb := t.fb, redraw := true, pc := s.pc + 2#16 } ∧ SameMemory s t) ∧
    (∃ t, exec .high s = .next t ∧ t.mode = .extended ∧ t.mode.width = 128 ∧ t.mode.height = 64 ∧
      (∀ j, j < 8192 → Fb.cell t.fb j = false) ∧
      t = { s with mode := .extended, fb := t.fb, redraw := true, pc := s.pc + 2#16 } ∧ SameMemory s t)

/-! ### Timers and keys -/

/-- R180, R182, R183: `LD VX, DT`, `LD DT, VX` and `LD ST, VX`. -/
def Obligations.TimerMoves : Prop :=
  ∀ (x : Reg) (s : State),
    decode (0xF#4 ++ x ++ 0x07#8) = some (.ldVxDt x) ∧ decode (0xF#4 ++ x ++ 0x15#8) = some (.ldDtVx x) ∧
    decode (0xF#4 ++ x ++ 0x18#8) = some (.ldStVx x) ∧
    (∃ t, exec (.ldVxDt x) s = .next t ∧ t.getV x = s.DT ∧ OtherRegs s t [x] ∧
      t = { s with V := t.V, pc := s.pc + 2#16 } ∧ SameMemory s t) ∧
    (∃ t, exec (.ldDtVx x) s = .next t ∧ t = { s with DT := s.getV x, pc := s.pc + 2#16 } ∧ SameMemory s t) ∧
    (∃ t, exec (.ldStVx x) s = .next t ∧ t = { s with ST := s.getV x, pc := s.pc + 2#16 } ∧ SameMemory s t)

/-- R181: `LD VX, K`: with no key "the step changes nothing" and returns Continue (of the model's own count of
steps, log entry 2, it says nothing); with key k, VX = k and pc advances. -/
def Obligations.KeyReadWaitsForKeyIn : Prop :=
  ∀ (x : Reg) (s : State),
    decode (0xF#4 ++ x ++ 0x0A#8) = some (.ldVxK x) ∧
    (s.input.key = none → exec (.ldVxK x) s = .next s) ∧
    (∀ rand, s.status = .running → s.fetchable → decode s.fetchWord = some (.ldVxK x) →
      ∃ n, portStep ⟨none, rand⟩ s = ({ s with turn := n }, .continues)) ∧
    (∀ k, s.input.key = some k → ∃ t, exec (.ldVxK x) s = .next t ∧ (t.getV x).toNat = k.toNat ∧
      OtherRegs s t [x] ∧ t = { s with V := t.V, pc := s.pc + 2#16 } ∧ SameMemory s t)

/-! ### The address register, memory and RPL flags -/

/-- R190: `LD I, NNN`. -/
def Obligations.LoadIndexSetsI : Prop :=
  ∀ (nnn : Addr) (s : State),
    decode (0xA#4 ++ nnn) = some (.ldI nnn) ∧
    ∃ t, exec (.ldI nnn) s = .next t ∧ t = { s with I := nnn, pc := s.pc + 2#16 } ∧ SameMemory s t

/-- R191: `ADD I, VX`: the sum kept to 12 bits, VF = 1 iff it exceeds 0xFFF. -/
def Obligations.AddToIndexCarriesOutOfTwelveBits : Prop :=
  ∀ (x : Reg) (s : State),
    decode (0xF#4 ++ x ++ 0x1E#8) = some (.addIVx x) ∧
    ∃ t, exec (.addIVx x) s = .next t ∧ t.I.toNat = (s.I.toNat + (s.getV x).toNat) % 0x1000 ∧
      t.getV 0xF#4 = (if s.I.toNat + (s.getV x).toNat > 0xFFF then 1#8 else 0#8) ∧
      OtherRegs s t [0xF#4] ∧ t = { s with V := t.V, I := t.I, pc := s.pc + 2#16 } ∧ SameMemory s t

/-- R192, R193, R219: `LD F, VX` and `LD HF, VX`, and FontDigitOutOfRange beyond the font. -/
def Obligations.FontLoadsPointAtTheGlyph : Prop :=
  ∀ (x : Reg) (s : State),
    decode (0xF#4 ++ x ++ 0x29#8) = some (.ldF x) ∧ decode (0xF#4 ++ x ++ 0x30#8) = some (.ldHf x) ∧
    ((s.getV x).toNat ≤ 0xF → ∃ t, exec (.ldF x) s = .next t ∧ t.I.toNat = 5 * (s.getV x).toNat ∧
      t = { s with I := t.I, pc := s.pc + 2#16 } ∧ SameMemory s t) ∧
    ((s.getV x).toNat > 0xF → exec (.ldF x) s =
      .next { s with status := .faulted (.fontDigitOutOfRange (s.getV x)) }) ∧
    ((s.getV x).toNat ≤ 9 → ∃ t, exec (.ldHf x) s = .next t ∧ t.I.toNat = 0x050 + 10 * (s.getV x).toNat ∧
      t = { s with I := t.I, pc := s.pc + 2#16 } ∧ SameMemory s t) ∧
    ((s.getV x).toNat > 9 → exec (.ldHf x) s =
      .next { s with status := .faulted (.fontDigitOutOfRange (s.getV x)) })

/-- R194: `LD B, VX`: the decimal digits at I, I + 1, I + 2, every other byte unchanged; nothing written beyond
memory. -/
def Obligations.DecimalDigitsAreStored : Prop :=
  ∀ (x : Reg) (s : State),
    decode (0xF#4 ++ x ++ 0x33#8) = some (.ldB x) ∧
    (s.I.toNat + 2 ≤ 0xFFF → ∃ t, exec (.ldB x) s = .next t ∧
      (t.readByte s.I).toNat = (s.getV x).toNat / 100 ∧
      (t.readByte (s.I + 1#12)).toNat = (s.getV x).toNat / 10 % 10 ∧
      (t.readByte (s.I + 2#12)).toNat = (s.getV x).toNat % 10 ∧
      (∀ a : Addr, a ≠ s.I → a ≠ s.I + 1#12 → a ≠ s.I + 2#12 → t.readByte a = s.readByte a) ∧
      t = { s with mem := t.mem, pc := s.pc + 2#16 }) ∧
    (s.I.toNat + 2 > 0xFFF → exec (.ldB x) s =
      .next { s with status := .faulted (.memoryOutOfRange (BitVec.ofNat 16 (s.I.toNat + 2))) })

/-- R195: `LD [I], VX`: V0 to VX at I, I + 1, …, every other byte unchanged, I unchanged. -/
def Obligations.RegistersAreStoredAtI : Prop :=
  ∀ (x : Reg) (s : State),
    decode (0xF#4 ++ x ++ 0x55#8) = some (.ldMemVx x) ∧
    (s.I.toNat + x.toNat ≤ 0xFFF → ∃ t, exec (.ldMemVx x) s = .next t ∧
      (∀ z : Reg, z.toNat ≤ x.toNat → t.readByte (s.I + z.setWidth 12) = s.getV z) ∧
      (∀ a : Addr, (∀ z : Reg, z.toNat ≤ x.toNat → a ≠ s.I + z.setWidth 12) → t.readByte a = s.readByte a) ∧
      t = { s with mem := t.mem, pc := s.pc + 2#16 }) ∧
    (s.I.toNat + x.toNat > 0xFFF → exec (.ldMemVx x) s =
      .next { s with status := .faulted (.memoryOutOfRange (BitVec.ofNat 16 (s.I.toNat + x.toNat))) })

/-- R196: `LD VX, [I]`: V0 to VX from I, I + 1, …, I unchanged. -/
def Obligations.RegistersAreLoadedFromI : Prop :=
  ∀ (x : Reg) (s : State),
    decode (0xF#4 ++ x ++ 0x65#8) = some (.ldVxMem x) ∧
    (s.I.toNat + x.toNat ≤ 0xFFF → ∃ t, exec (.ldVxMem x) s = .next t ∧
      (∀ z : Reg, t.getV z = if z.toNat ≤ x.toNat then s.readByte (s.I + z.setWidth 12) else s.getV z) ∧
      t = { s with V := t.V, pc := s.pc + 2#16 } ∧ SameMemory s t) ∧
    (s.I.toNat + x.toNat > 0xFFF → exec (.ldVxMem x) s =
      .next { s with status := .faulted (.memoryOutOfRange (BitVec.ofNat 16 (s.I.toNat + x.toNat))) })

/-- R197, R198, R218: `LD R, VX` and `LD VX, R`, and RplIndexOutOfRange for X > 7. -/
def Obligations.RplFlagsAreStoredAndLoaded : Prop :=
  ∀ (x : Reg) (s : State),
    decode (0xF#4 ++ x ++ 0x75#8) = some (.ldRVx x) ∧ decode (0xF#4 ++ x ++ 0x85#8) = some (.ldVxR x) ∧
    (x.toNat ≤ 7 →
      (∃ t, exec (.ldRVx x) s = .next t ∧
        (∀ z : Reg, z.toNat < 8 →
          t.rpl[z.toNat]? = if z.toNat ≤ x.toNat then some (s.getV z) else s.rpl[z.toNat]?) ∧
        t = { s with rpl := t.rpl, pc := s.pc + 2#16 } ∧ SameMemory s t) ∧
      (∃ t, exec (.ldVxR x) s = .next t ∧
        (∀ z : Reg, z.toNat ≤ x.toNat → s.rpl[z.toNat]? = some (t.getV z)) ∧
        (∀ z : Reg, z.toNat > x.toNat → t.getV z = s.getV z) ∧
        t = { s with V := t.V, pc := s.pc + 2#16 } ∧ SameMemory s t)) ∧
    (x.toNat > 7 →
      exec (.ldRVx x) s = .next { s with status := .faulted (.rplIndexOutOfRange x) } ∧
      exec (.ldVxR x) s = .next { s with status := .faulted (.rplIndexOutOfRange x) })

/-- R73, R246 (inferences the spec marks as derived): a byte FX55 writes where the next instruction is fetched is in the
word the very next fetch reads. -/
def Obligations.StoredBytesAreFetchedAtOnce : Prop :=
  ∀ (x z : Reg) (s t : State), s.I.toNat + x.toNat ≤ 0xFFF → z.toNat ≤ x.toNat → exec (.ldMemVx x) s = .next t →
    (t.pc.toNat = s.I.toNat + z.toNat → t.fetchWord.toNat / 256 = (s.getV z).toNat) ∧
    (t.pc.toNat + 1 = s.I.toNat + z.toNat → t.fetchWord.toNat % 256 = (s.getV z).toNat)

/-! ### System and host ports -/

/-- R200: `EXIT`: status Halted, pc advanced, nothing else; that step returns Halted "and so does every later step". -/
def Obligations.ExitHaltsCleanly : Prop :=
  decode 0x00FD#16 = some .exit ∧
  ∀ s : State, ∃ t, exec .exit s = .next t ∧ t = { s with status := .halted, pc := s.pc + 2#16 } ∧
    SameMemory s t ∧ step t = .next t ∧ (∀ input, portStep input t = (t, .halted)) ∧
    (∀ input, s.status = .running → s.fetchable → decode s.fetchWord = some .exit → (portStep input s).2 = .halted)

/-- R224: `tick_timers` decrements both timers by 1 if nonzero, in every status, and changes nothing else. -/
def Obligations.TickCountsBothTimersDown : Prop :=
  ∀ s : State,
    (portTickTimers s).DT.toNat = s.DT.toNat - 1 ∧ (portTickTimers s).ST.toNat = s.ST.toNat - 1 ∧
    portTickTimers s = { s with DT := (portTickTimers s).DT, ST := (portTickTimers s).ST }

/-- R226 to R230: the other ports between steps, and the tone. -/
def Obligations.HostPortsTouchOnlyTheirOwn : Prop :=
  ∀ (k : Nibble) (p : Bool) (s : State),
    ((portSetKey k p s).key[k.toNat]? = some p ∧
      (∀ j, j ≠ k.toNat → (portSetKey k p s).key[j]? = s.key[j]?) ∧
      portSetKey k p s = { s with key := (portSetKey k p s).key }) ∧
    ((portReadFramebuffer s).1 = s.mode.width ∧ (portReadFramebuffer s).2.1 = s.mode.height ∧
      (portReadFramebuffer s).2.2.length = s.mode.width * s.mode.height ∧
      (∀ x y, x < s.mode.width → y < s.mode.height →
        (portReadFramebuffer s).2.2[y * s.mode.width + x]? = some (s.pixel x y))) ∧
    portAckRedraw s = { s with redraw := false } ∧
    portReadTimers s = (s.DT, s.ST) ∧ (toneOn s = true ↔ s.ST ≠ 0#8)

/-- R107, R234, R250: no turns of the driver change a stopped machine but through its own ports (timers, keypad,
`redraw`). -/
def Obligations.StoppedMachineStaysAsItIs : Prop :=
  ∀ (turns : List Turn) (s : State), s.status ≠ .running →
    drive turns s = { s with DT := (drive turns s).DT, ST := (drive turns s).ST, key := (drive turns s).key,
                             redraw := (drive turns s).redraw }
end

