-- ==== Sys2Proof/Laws/State.lean ====
section
/-! SUPPORT. What each named update of the state does to each field and to the environment of the step: one lemma per
field per update, so that no later proof unfolds a record update. -/

namespace Sys2Proof.Machine

/-! ### `setV` -/

@[simp] theorem State.setV_mem (s : State) (x : Reg) (v : Byte) : (s.setV x v).mem = s.mem := rfl
@[simp] theorem State.setV_V (s : State) (x : Reg) (v : Byte) : (s.setV x v).V = s.V.set x.toNat v x.isLt := rfl
@[simp] theorem State.setV_I (s : State) (x : Reg) (v : Byte) : (s.setV x v).I = s.I := rfl
@[simp] theorem State.setV_pc (s : State) (x : Reg) (v : Byte) : (s.setV x v).pc = s.pc := rfl
@[simp] theorem State.setV_stack (s : State) (x : Reg) (v : Byte) : (s.setV x v).stack = s.stack := rfl
@[simp] theorem State.setV_DT (s : State) (x : Reg) (v : Byte) : (s.setV x v).DT = s.DT := rfl
@[simp] theorem State.setV_ST (s : State) (x : Reg) (v : Byte) : (s.setV x v).ST = s.ST := rfl
@[simp] theorem State.setV_key (s : State) (x : Reg) (v : Byte) : (s.setV x v).key = s.key := rfl
@[simp] theorem State.setV_rpl (s : State) (x : Reg) (v : Byte) : (s.setV x v).rpl = s.rpl := rfl
@[simp] theorem State.setV_fb (s : State) (x : Reg) (v : Byte) : (s.setV x v).fb = s.fb := rfl
@[simp] theorem State.setV_mode (s : State) (x : Reg) (v : Byte) : (s.setV x v).mode = s.mode := rfl
@[simp] theorem State.setV_redraw (s : State) (x : Reg) (v : Byte) : (s.setV x v).redraw = s.redraw := rfl
@[simp] theorem State.setV_status (s : State) (x : Reg) (v : Byte) : (s.setV x v).status = s.status := rfl
@[simp] theorem State.setV_cfg (s : State) (x : Reg) (v : Byte) : (s.setV x v).cfg = s.cfg := rfl
@[simp] theorem State.setV_inputs (s : State) (x : Reg) (v : Byte) : (s.setV x v).inputs = s.inputs := rfl
@[simp] theorem State.setV_turn (s : State) (x : Reg) (v : Byte) : (s.setV x v).turn = s.turn := rfl
@[simp] theorem State.setV_toEnvironment (s : State) (x : Reg) (v : Byte) : (s.setV x v).toEnvironment = s.toEnvironment := rfl

/-! ### `loadV` -/

@[simp] theorem State.loadV_mem (s : State) (n : Nat) (f : Nat → Byte) : (s.loadV n f).mem = s.mem := rfl
@[simp] theorem State.loadV_V (s : State) (n : Nat) (f : Nat → Byte) : (s.loadV n f).V = s.V.mapFinIdx fun i v _ => if i < n then f i else v := rfl
@[simp] theorem State.loadV_I (s : State) (n : Nat) (f : Nat → Byte) : (s.loadV n f).I = s.I := rfl
@[simp] theorem State.loadV_pc (s : State) (n : Nat) (f : Nat → Byte) : (s.loadV n f).pc = s.pc := rfl
@[simp] theorem State.loadV_stack (s : State) (n : Nat) (f : Nat → Byte) : (s.loadV n f).stack = s.stack := rfl
@[simp] theorem State.loadV_DT (s : State) (n : Nat) (f : Nat → Byte) : (s.loadV n f).DT = s.DT := rfl
@[simp] theorem State.loadV_ST (s : State) (n : Nat) (f : Nat → Byte) : (s.loadV n f).ST = s.ST := rfl
@[simp] theorem State.loadV_key (s : State) (n : Nat) (f : Nat → Byte) : (s.loadV n f).key = s.key := rfl
@[simp] theorem State.loadV_rpl (s : State) (n : Nat) (f : Nat → Byte) : (s.loadV n f).rpl = s.rpl := rfl
@[simp] theorem State.loadV_fb (s : State) (n : Nat) (f : Nat → Byte) : (s.loadV n f).fb = s.fb := rfl
@[simp] theorem State.loadV_mode (s : State) (n : Nat) (f : Nat → Byte) : (s.loadV n f).mode = s.mode := rfl
@[simp] theorem State.loadV_redraw (s : State) (n : Nat) (f : Nat → Byte) : (s.loadV n f).redraw = s.redraw := rfl
@[simp] theorem State.loadV_status (s : State) (n : Nat) (f : Nat → Byte) : (s.loadV n f).status = s.status := rfl
@[simp] theorem State.loadV_cfg (s : State) (n : Nat) (f : Nat → Byte) : (s.loadV n f).cfg = s.cfg := rfl
@[simp] theorem State.loadV_inputs (s : State) (n : Nat) (f : Nat → Byte) : (s.loadV n f).inputs = s.inputs := rfl
@[simp] theorem State.loadV_turn (s : State) (n : Nat) (f : Nat → Byte) : (s.loadV n f).turn = s.turn := rfl
@[simp] theorem State.loadV_toEnvironment (s : State) (n : Nat) (f : Nat → Byte) : (s.loadV n f).toEnvironment = s.toEnvironment := rfl

/-! ### `storeRpl` -/

@[simp] theorem State.storeRpl_mem (s : State) (n : Nat) (f : Nat → Byte) : (s.storeRpl n f).mem = s.mem := rfl
@[simp] theorem State.storeRpl_V (s : State) (n : Nat) (f : Nat → Byte) : (s.storeRpl n f).V = s.V := rfl
@[simp] theorem State.storeRpl_I (s : State) (n : Nat) (f : Nat → Byte) : (s.storeRpl n f).I = s.I := rfl
@[simp] theorem State.storeRpl_pc (s : State) (n : Nat) (f : Nat → Byte) : (s.storeRpl n f).pc = s.pc := rfl
@[simp] theorem State.storeRpl_stack (s : State) (n : Nat) (f : Nat → Byte) : (s.storeRpl n f).stack = s.stack := rfl
@[simp] theorem State.storeRpl_DT (s : State) (n : Nat) (f : Nat → Byte) : (s.storeRpl n f).DT = s.DT := rfl
@[simp] theorem State.storeRpl_ST (s : State) (n : Nat) (f : Nat → Byte) : (s.storeRpl n f).ST = s.ST := rfl
@[simp] theorem State.storeRpl_key (s : State) (n : Nat) (f : Nat → Byte) : (s.storeRpl n f).key = s.key := rfl
@[simp] theorem State.storeRpl_rpl (s : State) (n : Nat) (f : Nat → Byte) : (s.storeRpl n f).rpl = s.rpl.mapFinIdx fun i v _ => if i < n then f i else v := rfl
@[simp] theorem State.storeRpl_fb (s : State) (n : Nat) (f : Nat → Byte) : (s.storeRpl n f).fb = s.fb := rfl
@[simp] theorem State.storeRpl_mode (s : State) (n : Nat) (f : Nat → Byte) : (s.storeRpl n f).mode = s.mode := rfl
@[simp] theorem State.storeRpl_redraw (s : State) (n : Nat) (f : Nat → Byte) : (s.storeRpl n f).redraw = s.redraw := rfl
@[simp] theorem State.storeRpl_status (s : State) (n : Nat) (f : Nat → Byte) : (s.storeRpl n f).status = s.status := rfl
@[simp] theorem State.storeRpl_cfg (s : State) (n : Nat) (f : Nat → Byte) : (s.storeRpl n f).cfg = s.cfg := rfl
@[simp] theorem State.storeRpl_inputs (s : State) (n : Nat) (f : Nat → Byte) : (s.storeRpl n f).inputs = s.inputs := rfl
@[simp] theorem State.storeRpl_turn (s : State) (n : Nat) (f : Nat → Byte) : (s.storeRpl n f).turn = s.turn := rfl
@[simp] theorem State.storeRpl_toEnvironment (s : State) (n : Nat) (f : Nat → Byte) : (s.storeRpl n f).toEnvironment = s.toEnvironment := rfl

/-! ### `writeByte` -/

@[simp] theorem State.writeByte_mem (s : State) (a : Addr) (v : Byte) : (s.writeByte a v).mem = Memory.write s.cfg s.mem a.toNat v := rfl
@[simp] theorem State.writeByte_V (s : State) (a : Addr) (v : Byte) : (s.writeByte a v).V = s.V := rfl
@[simp] theorem State.writeByte_I (s : State) (a : Addr) (v : Byte) : (s.writeByte a v).I = s.I := rfl
@[simp] theorem State.writeByte_pc (s : State) (a : Addr) (v : Byte) : (s.writeByte a v).pc = s.pc := rfl
@[simp] theorem State.writeByte_stack (s : State) (a : Addr) (v : Byte) : (s.writeByte a v).stack = s.stack := rfl
@[simp] theorem State.writeByte_DT (s : State) (a : Addr) (v : Byte) : (s.writeByte a v).DT = s.DT := rfl
@[simp] theorem State.writeByte_ST (s : State) (a : Addr) (v : Byte) : (s.writeByte a v).ST = s.ST := rfl
@[simp] theorem State.writeByte_key (s : State) (a : Addr) (v : Byte) : (s.writeByte a v).key = s.key := rfl
@[simp] theorem State.writeByte_rpl (s : State) (a : Addr) (v : Byte) : (s.writeByte a v).rpl = s.rpl := rfl
@[simp] theorem State.writeByte_fb (s : State) (a : Addr) (v : Byte) : (s.writeByte a v).fb = s.fb := rfl
@[simp] theorem State.writeByte_mode (s : State) (a : Addr) (v : Byte) : (s.writeByte a v).mode = s.mode := rfl
@[simp] theorem State.writeByte_redraw (s : State) (a : Addr) (v : Byte) : (s.writeByte a v).redraw = s.redraw := rfl
@[simp] theorem State.writeByte_status (s : State) (a : Addr) (v : Byte) : (s.writeByte a v).status = s.status := rfl
@[simp] theorem State.writeByte_cfg (s : State) (a : Addr) (v : Byte) : (s.writeByte a v).cfg = s.cfg := rfl
@[simp] theorem State.writeByte_inputs (s : State) (a : Addr) (v : Byte) : (s.writeByte a v).inputs = s.inputs := rfl
@[simp] theorem State.writeByte_turn (s : State) (a : Addr) (v : Byte) : (s.writeByte a v).turn = s.turn := rfl
@[simp] theorem State.writeByte_toEnvironment (s : State) (a : Addr) (v : Byte) : (s.writeByte a v).toEnvironment = s.toEnvironment := rfl

/-! ### `jumpTo` -/

@[simp] theorem State.jumpTo_mem (s : State) (t : Word) : (s.jumpTo t).mem = s.mem := rfl
@[simp] theorem State.jumpTo_V (s : State) (t : Word) : (s.jumpTo t).V = s.V := rfl
@[simp] theorem State.jumpTo_I (s : State) (t : Word) : (s.jumpTo t).I = s.I := rfl
@[simp] theorem State.jumpTo_pc (s : State) (t : Word) : (s.jumpTo t).pc = t := rfl
@[simp] theorem State.jumpTo_stack (s : State) (t : Word) : (s.jumpTo t).stack = s.stack := rfl
@[simp] theorem State.jumpTo_DT (s : State) (t : Word) : (s.jumpTo t).DT = s.DT := rfl
@[simp] theorem State.jumpTo_ST (s : State) (t : Word) : (s.jumpTo t).ST = s.ST := rfl
@[simp] theorem State.jumpTo_key (s : State) (t : Word) : (s.jumpTo t).key = s.key := rfl
@[simp] theorem State.jumpTo_rpl (s : State) (t : Word) : (s.jumpTo t).rpl = s.rpl := rfl
@[simp] theorem State.jumpTo_fb (s : State) (t : Word) : (s.jumpTo t).fb = s.fb := rfl
@[simp] theorem State.jumpTo_mode (s : State) (t : Word) : (s.jumpTo t).mode = s.mode := rfl
@[simp] theorem State.jumpTo_redraw (s : State) (t : Word) : (s.jumpTo t).redraw = s.redraw := rfl
@[simp] theorem State.jumpTo_status (s : State) (t : Word) : (s.jumpTo t).status = s.status := rfl
@[simp] theorem State.jumpTo_cfg (s : State) (t : Word) : (s.jumpTo t).cfg = s.cfg := rfl
@[simp] theorem State.jumpTo_inputs (s : State) (t : Word) : (s.jumpTo t).inputs = s.inputs := rfl
@[simp] theorem State.jumpTo_turn (s : State) (t : Word) : (s.jumpTo t).turn = s.turn := rfl
@[simp] theorem State.jumpTo_toEnvironment (s : State) (t : Word) : (s.jumpTo t).toEnvironment = s.toEnvironment := rfl

/-! ### `advance` -/

@[simp] theorem State.advance_mem (s : State) : (s.advance).mem = s.mem := rfl
@[simp] theorem State.advance_V (s : State) : (s.advance).V = s.V := rfl
@[simp] theorem State.advance_I (s : State) : (s.advance).I = s.I := rfl
@[simp] theorem State.advance_pc (s : State) : (s.advance).pc = s.pc + 2#16 := rfl
@[simp] theorem State.advance_stack (s : State) : (s.advance).stack = s.stack := rfl
@[simp] theorem State.advance_DT (s : State) : (s.advance).DT = s.DT := rfl
@[simp] theorem State.advance_ST (s : State) : (s.advance).ST = s.ST := rfl
@[simp] theorem State.advance_key (s : State) : (s.advance).key = s.key := rfl
@[simp] theorem State.advance_rpl (s : State) : (s.advance).rpl = s.rpl := rfl
@[simp] theorem State.advance_fb (s : State) : (s.advance).fb = s.fb := rfl
@[simp] theorem State.advance_mode (s : State) : (s.advance).mode = s.mode := rfl
@[simp] theorem State.advance_redraw (s : State) : (s.advance).redraw = s.redraw := rfl
@[simp] theorem State.advance_status (s : State) : (s.advance).status = s.status := rfl
@[simp] theorem State.advance_cfg (s : State) : (s.advance).cfg = s.cfg := rfl
@[simp] theorem State.advance_inputs (s : State) : (s.advance).inputs = s.inputs := rfl
@[simp] theorem State.advance_turn (s : State) : (s.advance).turn = s.turn := rfl
@[simp] theorem State.advance_toEnvironment (s : State) : (s.advance).toEnvironment = s.toEnvironment := rfl

/-! ### `skipIf` -/

@[simp] theorem State.skipIf_mem (s : State) (c : Bool) : (s.skipIf c).mem = s.mem := rfl
@[simp] theorem State.skipIf_V (s : State) (c : Bool) : (s.skipIf c).V = s.V := rfl
@[simp] theorem State.skipIf_I (s : State) (c : Bool) : (s.skipIf c).I = s.I := rfl
@[simp] theorem State.skipIf_pc (s : State) (c : Bool) : (s.skipIf c).pc = if c then s.pc + 4#16 else s.pc + 2#16 := rfl
@[simp] theorem State.skipIf_stack (s : State) (c : Bool) : (s.skipIf c).stack = s.stack := rfl
@[simp] theorem State.skipIf_DT (s : State) (c : Bool) : (s.skipIf c).DT = s.DT := rfl
@[simp] theorem State.skipIf_ST (s : State) (c : Bool) : (s.skipIf c).ST = s.ST := rfl
@[simp] theorem State.skipIf_key (s : State) (c : Bool) : (s.skipIf c).key = s.key := rfl
@[simp] theorem State.skipIf_rpl (s : State) (c : Bool) : (s.skipIf c).rpl = s.rpl := rfl
@[simp] theorem State.skipIf_fb (s : State) (c : Bool) : (s.skipIf c).fb = s.fb := rfl
@[simp] theorem State.skipIf_mode (s : State) (c : Bool) : (s.skipIf c).mode = s.mode := rfl
@[simp] theorem State.skipIf_redraw (s : State) (c : Bool) : (s.skipIf c).redraw = s.redraw := rfl
@[simp] theorem State.skipIf_status (s : State) (c : Bool) : (s.skipIf c).status = s.status := rfl
@[simp] theorem State.skipIf_cfg (s : State) (c : Bool) : (s.skipIf c).cfg = s.cfg := rfl
@[simp] theorem State.skipIf_inputs (s : State) (c : Bool) : (s.skipIf c).inputs = s.inputs := rfl
@[simp] theorem State.skipIf_turn (s : State) (c : Bool) : (s.skipIf c).turn = s.turn := rfl
@[simp] theorem State.skipIf_toEnvironment (s : State) (c : Bool) : (s.skipIf c).toEnvironment = s.toEnvironment := rfl

/-! ### `push` -/

@[simp] theorem State.push_mem (s : State) (a : Word) : (s.push a).mem = s.mem := rfl
@[simp] theorem State.push_V (s : State) (a : Word) : (s.push a).V = s.V := rfl
@[simp] theorem State.push_I (s : State) (a : Word) : (s.push a).I = s.I := rfl
@[simp] theorem State.push_pc (s : State) (a : Word) : (s.push a).pc = s.pc := rfl
@[simp] theorem State.push_stack (s : State) (a : Word) : (s.push a).stack = s.stack ++ [a] := rfl
@[simp] theorem State.push_DT (s : State) (a : Word) : (s.push a).DT = s.DT := rfl
@[simp] theorem State.push_ST (s : State) (a : Word) : (s.push a).ST = s.ST := rfl
@[simp] theorem State.push_key (s : State) (a : Word) : (s.push a).key = s.key := rfl
@[simp] theorem State.push_rpl (s : State) (a : Word) : (s.push a).rpl = s.rpl := rfl
@[simp] theorem State.push_fb (s : State) (a : Word) : (s.push a).fb = s.fb := rfl
@[simp] theorem State.push_mode (s : State) (a : Word) : (s.push a).mode = s.mode := rfl
@[simp] theorem State.push_redraw (s : State) (a : Word) : (s.push a).redraw = s.redraw := rfl
@[simp] theorem State.push_status (s : State) (a : Word) : (s.push a).status = s.status := rfl
@[simp] theorem State.push_cfg (s : State) (a : Word) : (s.push a).cfg = s.cfg := rfl
@[simp] theorem State.push_inputs (s : State) (a : Word) : (s.push a).inputs = s.inputs := rfl
@[simp] theorem State.push_turn (s : State) (a : Word) : (s.push a).turn = s.turn := rfl
@[simp] theorem State.push_toEnvironment (s : State) (a : Word) : (s.push a).toEnvironment = s.toEnvironment := rfl

/-! ### `pop` -/

@[simp] theorem State.pop_mem (s : State) : (s.pop).mem = s.mem := rfl
@[simp] theorem State.pop_V (s : State) : (s.pop).V = s.V := rfl
@[simp] theorem State.pop_I (s : State) : (s.pop).I = s.I := rfl
@[simp] theorem State.pop_pc (s : State) : (s.pop).pc = s.pc := rfl
@[simp] theorem State.pop_stack (s : State) : (s.pop).stack = s.stack.dropLast := rfl
@[simp] theorem State.pop_DT (s : State) : (s.pop).DT = s.DT := rfl
@[simp] theorem State.pop_ST (s : State) : (s.pop).ST = s.ST := rfl
@[simp] theorem State.pop_key (s : State) : (s.pop).key = s.key := rfl
@[simp] theorem State.pop_rpl (s : State) : (s.pop).rpl = s.rpl := rfl
@[simp] theorem State.pop_fb (s : State) : (s.pop).fb = s.fb := rfl
@[simp] theorem State.pop_mode (s : State) : (s.pop).mode = s.mode := rfl
@[simp] theorem State.pop_redraw (s : State) : (s.pop).redraw = s.redraw := rfl
@[simp] theorem State.pop_status (s : State) : (s.pop).status = s.status := rfl
@[simp] theorem State.pop_cfg (s : State) : (s.pop).cfg = s.cfg := rfl
@[simp] theorem State.pop_inputs (s : State) : (s.pop).inputs = s.inputs := rfl
@[simp] theorem State.pop_turn (s : State) : (s.pop).turn = s.turn := rfl
@[simp] theorem State.pop_toEnvironment (s : State) : (s.pop).toEnvironment = s.toEnvironment := rfl

/-! ### `consumeInput` -/

@[simp] theorem State.consumeInput_mem (s : State) : (s.consumeInput).mem = s.mem := rfl
@[simp] theorem State.consumeInput_V (s : State) : (s.consumeInput).V = s.V := rfl
@[simp] theorem State.consumeInput_I (s : State) : (s.consumeInput).I = s.I := rfl
@[simp] theorem State.consumeInput_pc (s : State) : (s.consumeInput).pc = s.pc := rfl
@[simp] theorem State.consumeInput_stack (s : State) : (s.consumeInput).stack = s.stack := rfl
@[simp] theorem State.consumeInput_DT (s : State) : (s.consumeInput).DT = s.DT := rfl
@[simp] theorem State.consumeInput_ST (s : State) : (s.consumeInput).ST = s.ST := rfl
@[simp] theorem State.consumeInput_key (s : State) : (s.consumeInput).key = s.key := rfl
@[simp] theorem State.consumeInput_rpl (s : State) : (s.consumeInput).rpl = s.rpl := rfl
@[simp] theorem State.consumeInput_fb (s : State) : (s.consumeInput).fb = s.fb := rfl
@[simp] theorem State.consumeInput_mode (s : State) : (s.consumeInput).mode = s.mode := rfl
@[simp] theorem State.consumeInput_redraw (s : State) : (s.consumeInput).redraw = s.redraw := rfl
@[simp] theorem State.consumeInput_status (s : State) : (s.consumeInput).status = s.status := rfl
@[simp] theorem State.consumeInput_cfg (s : State) : (s.consumeInput).cfg = s.cfg := rfl
@[simp] theorem State.consumeInput_inputs (s : State) : (s.consumeInput).inputs = s.inputs.tail := rfl
@[simp] theorem State.consumeInput_turn (s : State) : (s.consumeInput).turn = s.turn + 1 := rfl
@[simp] theorem State.consumeInput_toRecord (s : State) : (s.consumeInput).toRecord = s.toRecord := rfl

/-! ### `setFlag` -/

@[simp] theorem State.setFlag_mem (s : State) (f : Bool) : (s.setFlag f).mem = s.mem := rfl
@[simp] theorem State.setFlag_V (s : State) (f : Bool) : (s.setFlag f).V = s.V.set 15 (flagByte f) := rfl
@[simp] theorem State.setFlag_I (s : State) (f : Bool) : (s.setFlag f).I = s.I := rfl
@[simp] theorem State.setFlag_pc (s : State) (f : Bool) : (s.setFlag f).pc = s.pc := rfl
@[simp] theorem State.setFlag_stack (s : State) (f : Bool) : (s.setFlag f).stack = s.stack := rfl
@[simp] theorem State.setFlag_DT (s : State) (f : Bool) : (s.setFlag f).DT = s.DT := rfl
@[simp] theorem State.setFlag_ST (s : State) (f : Bool) : (s.setFlag f).ST = s.ST := rfl
@[simp] theorem State.setFlag_key (s : State) (f : Bool) : (s.setFlag f).key = s.key := rfl
@[simp] theorem State.setFlag_rpl (s : State) (f : Bool) : (s.setFlag f).rpl = s.rpl := rfl
@[simp] theorem State.setFlag_fb (s : State) (f : Bool) : (s.setFlag f).fb = s.fb := rfl
@[simp] theorem State.setFlag_mode (s : State) (f : Bool) : (s.setFlag f).mode = s.mode := rfl
@[simp] theorem State.setFlag_redraw (s : State) (f : Bool) : (s.setFlag f).redraw = s.redraw := rfl
@[simp] theorem State.setFlag_status (s : State) (f : Bool) : (s.setFlag f).status = s.status := rfl
@[simp] theorem State.setFlag_cfg (s : State) (f : Bool) : (s.setFlag f).cfg = s.cfg := rfl
@[simp] theorem State.setFlag_inputs (s : State) (f : Bool) : (s.setFlag f).inputs = s.inputs := rfl
@[simp] theorem State.setFlag_turn (s : State) (f : Bool) : (s.setFlag f).turn = s.turn := rfl
@[simp] theorem State.setFlag_toEnvironment (s : State) (f : Bool) : (s.setFlag f).toEnvironment = s.toEnvironment := rfl

/-! ### `setWithFlag` -/

@[simp] theorem State.setWithFlag_mem (s : State) (x : Reg) (r : Byte × Bool) : (s.setWithFlag x r).mem = s.mem := rfl
@[simp] theorem State.setWithFlag_V (s : State) (x : Reg) (r : Byte × Bool) : (s.setWithFlag x r).V = (s.V.set x.toNat r.1 x.isLt).set 15 (flagByte r.2) := rfl
@[simp] theorem State.setWithFlag_I (s : State) (x : Reg) (r : Byte × Bool) : (s.setWithFlag x r).I = s.I := rfl
@[simp] theorem State.setWithFlag_pc (s : State) (x : Reg) (r : Byte × Bool) : (s.setWithFlag x r).pc = s.pc := rfl
@[simp] theorem State.setWithFlag_stack (s : State) (x : Reg) (r : Byte × Bool) : (s.setWithFlag x r).stack = s.stack := rfl
@[simp] theorem State.setWithFlag_DT (s : State) (x : Reg) (r : Byte × Bool) : (s.setWithFlag x r).DT = s.DT := rfl
@[simp] theorem State.setWithFlag_ST (s : State) (x : Reg) (r : Byte × Bool) : (s.setWithFlag x r).ST = s.ST := rfl
@[simp] theorem State.setWithFlag_key (s : State) (x : Reg) (r : Byte × Bool) : (s.setWithFlag x r).key = s.key := rfl
@[simp] theorem State.setWithFlag_rpl (s : State) (x : Reg) (r : Byte × Bool) : (s.setWithFlag x r).rpl = s.rpl := rfl
@[simp] theorem State.setWithFlag_fb (s : State) (x : Reg) (r : Byte × Bool) : (s.setWithFlag x r).fb = s.fb := rfl
@[simp] theorem State.setWithFlag_mode (s : State) (x : Reg) (r : Byte × Bool) : (s.setWithFlag x r).mode = s.mode := rfl
@[simp] theorem State.setWithFlag_redraw (s : State) (x : Reg) (r : Byte × Bool) : (s.setWithFlag x r).redraw = s.redraw := rfl
@[simp] theorem State.setWithFlag_status (s : State) (x : Reg) (r : Byte × Bool) : (s.setWithFlag x r).status = s.status := rfl
@[simp] theorem State.setWithFlag_cfg (s : State) (x : Reg) (r : Byte × Bool) : (s.setWithFlag x r).cfg = s.cfg := rfl
@[simp] theorem State.setWithFlag_inputs (s : State) (x : Reg) (r : Byte × Bool) : (s.setWithFlag x r).inputs = s.inputs := rfl
@[simp] theorem State.setWithFlag_turn (s : State) (x : Reg) (r : Byte × Bool) : (s.setWithFlag x r).turn = s.turn := rfl
@[simp] theorem State.setWithFlag_toEnvironment (s : State) (x : Reg) (r : Byte × Bool) : (s.setWithFlag x r).toEnvironment = s.toEnvironment := rfl

/-! ### `setFb` -/

@[simp] theorem State.setFb_mem (s : State) (fb : Fb) : (s.setFb fb).mem = s.mem := rfl
@[simp] theorem State.setFb_V (s : State) (fb : Fb) : (s.setFb fb).V = s.V := rfl
@[simp] theorem State.setFb_I (s : State) (fb : Fb) : (s.setFb fb).I = s.I := rfl
@[simp] theorem State.setFb_pc (s : State) (fb : Fb) : (s.setFb fb).pc = s.pc := rfl
@[simp] theorem State.setFb_stack (s : State) (fb : Fb) : (s.setFb fb).stack = s.stack := rfl
@[simp] theorem State.setFb_DT (s : State) (fb : Fb) : (s.setFb fb).DT = s.DT := rfl
@[simp] theorem State.setFb_ST (s : State) (fb : Fb) : (s.setFb fb).ST = s.ST := rfl
@[simp] theorem State.setFb_key (s : State) (fb : Fb) : (s.setFb fb).key = s.key := rfl
@[simp] theorem State.setFb_rpl (s : State) (fb : Fb) : (s.setFb fb).rpl = s.rpl := rfl
@[simp] theorem State.setFb_fb (s : State) (fb : Fb) : (s.setFb fb).fb = fb := rfl
@[simp] theorem State.setFb_mode (s : State) (fb : Fb) : (s.setFb fb).mode = s.mode := rfl
@[simp] theorem State.setFb_redraw (s : State) (fb : Fb) : (s.setFb fb).redraw = true := rfl
@[simp] theorem State.setFb_status (s : State) (fb : Fb) : (s.setFb fb).status = s.status := rfl
@[simp] theorem State.setFb_cfg (s : State) (fb : Fb) : (s.setFb fb).cfg = s.cfg := rfl
@[simp] theorem State.setFb_inputs (s : State) (fb : Fb) : (s.setFb fb).inputs = s.inputs := rfl
@[simp] theorem State.setFb_turn (s : State) (fb : Fb) : (s.setFb fb).turn = s.turn := rfl
@[simp] theorem State.setFb_toEnvironment (s : State) (fb : Fb) : (s.setFb fb).toEnvironment = s.toEnvironment := rfl

/-! ### `switchMode` -/

@[simp] theorem State.switchMode_mem (s : State) (m : Mode) : (s.switchMode m).mem = s.mem := rfl
@[simp] theorem State.switchMode_V (s : State) (m : Mode) : (s.switchMode m).V = s.V := rfl
@[simp] theorem State.switchMode_I (s : State) (m : Mode) : (s.switchMode m).I = s.I := rfl
@[simp] theorem State.switchMode_pc (s : State) (m : Mode) : (s.switchMode m).pc = s.pc := rfl
@[simp] theorem State.switchMode_stack (s : State) (m : Mode) : (s.switchMode m).stack = s.stack := rfl
@[simp] theorem State.switchMode_DT (s : State) (m : Mode) : (s.switchMode m).DT = s.DT := rfl
@[simp] theorem State.switchMode_ST (s : State) (m : Mode) : (s.switchMode m).ST = s.ST := rfl
@[simp] theorem State.switchMode_key (s : State) (m : Mode) : (s.switchMode m).key = s.key := rfl
@[simp] theorem State.switchMode_rpl (s : State) (m : Mode) : (s.switchMode m).rpl = s.rpl := rfl
@[simp] theorem State.switchMode_fb (s : State) (m : Mode) : (s.switchMode m).fb = blankFb := rfl
@[simp] theorem State.switchMode_mode (s : State) (m : Mode) : (s.switchMode m).mode = m := rfl
@[simp] theorem State.switchMode_redraw (s : State) (m : Mode) : (s.switchMode m).redraw = true := rfl
@[simp] theorem State.switchMode_status (s : State) (m : Mode) : (s.switchMode m).status = s.status := rfl
@[simp] theorem State.switchMode_cfg (s : State) (m : Mode) : (s.switchMode m).cfg = s.cfg := rfl
@[simp] theorem State.switchMode_inputs (s : State) (m : Mode) : (s.switchMode m).inputs = s.inputs := rfl
@[simp] theorem State.switchMode_turn (s : State) (m : Mode) : (s.switchMode m).turn = s.turn := rfl
@[simp] theorem State.switchMode_toEnvironment (s : State) (m : Mode) : (s.switchMode m).toEnvironment = s.toEnvironment := rfl

/-! ### `afterDraw` -/

@[simp] theorem State.afterDraw_mem (s : State) (r : Fb × Bool) : (s.afterDraw r).mem = s.mem := rfl
@[simp] theorem State.afterDraw_V (s : State) (r : Fb × Bool) : (s.afterDraw r).V = s.V.set 15 (flagByte r.2) := rfl
@[simp] theorem State.afterDraw_I (s : State) (r : Fb × Bool) : (s.afterDraw r).I = s.I := rfl
@[simp] theorem State.afterDraw_pc (s : State) (r : Fb × Bool) : (s.afterDraw r).pc = s.pc := rfl
@[simp] theorem State.afterDraw_stack (s : State) (r : Fb × Bool) : (s.afterDraw r).stack = s.stack := rfl
@[simp] theorem State.afterDraw_DT (s : State) (r : Fb × Bool) : (s.afterDraw r).DT = s.DT := rfl
@[simp] theorem State.afterDraw_ST (s : State) (r : Fb × Bool) : (s.afterDraw r).ST = s.ST := rfl
@[simp] theorem State.afterDraw_key (s : State) (r : Fb × Bool) : (s.afterDraw r).key = s.key := rfl
@[simp] theorem State.afterDraw_rpl (s : State) (r : Fb × Bool) : (s.afterDraw r).rpl = s.rpl := rfl
@[simp] theorem State.afterDraw_fb (s : State) (r : Fb × Bool) : (s.afterDraw r).fb = r.1 := rfl
@[simp] theorem State.afterDraw_mode (s : State) (r : Fb × Bool) : (s.afterDraw r).mode = s.mode := rfl
@[simp] theorem State.afterDraw_redraw (s : State) (r : Fb × Bool) : (s.afterDraw r).redraw = true := rfl
@[simp] theorem State.afterDraw_status (s : State) (r : Fb × Bool) : (s.afterDraw r).status = s.status := rfl
@[simp] theorem State.afterDraw_cfg (s : State) (r : Fb × Bool) : (s.afterDraw r).cfg = s.cfg := rfl
@[simp] theorem State.afterDraw_inputs (s : State) (r : Fb × Bool) : (s.afterDraw r).inputs = s.inputs := rfl
@[simp] theorem State.afterDraw_turn (s : State) (r : Fb × Bool) : (s.afterDraw r).turn = s.turn := rfl
@[simp] theorem State.afterDraw_toEnvironment (s : State) (r : Fb × Bool) : (s.afterDraw r).toEnvironment = s.toEnvironment := rfl

/-! ### `storeBytes` -/

@[simp] theorem State.storeBytes_V (s : State) (a : Addr) (l : List Byte) : (s.storeBytes a l).V = s.V := by
  induction l generalizing s a with
  | nil => rfl
  | cons v l ih => exact ih _ _
@[simp] theorem State.storeBytes_I (s : State) (a : Addr) (l : List Byte) : (s.storeBytes a l).I = s.I := by
  induction l generalizing s a with
  | nil => rfl
  | cons v l ih => exact ih _ _
@[simp] theorem State.storeBytes_pc (s : State) (a : Addr) (l : List Byte) : (s.storeBytes a l).pc = s.pc := by
  induction l generalizing s a with
  | nil => rfl
  | cons v l ih => exact ih _ _
@[simp] theorem State.storeBytes_stack (s : State) (a : Addr) (l : List Byte) : (s.storeBytes a l).stack = s.stack := by
  induction l generalizing s a with
  | nil => rfl
  | cons v l ih => exact ih _ _
@[simp] theorem State.storeBytes_DT (s : State) (a : Addr) (l : List Byte) : (s.storeBytes a l).DT = s.DT := by
  induction l generalizing s a with
  | nil => rfl
  | cons v l ih => exact ih _ _
@[simp] theorem State.storeBytes_ST (s : State) (a : Addr) (l : List Byte) : (s.storeBytes a l).ST = s.ST := by
  induction l generalizing s a with
  | nil => rfl
  | cons v l ih => exact ih _ _
@[simp] theorem State.storeBytes_key (s : State) (a : Addr) (l : List Byte) : (s.storeBytes a l).key = s.key := by
  induction l generalizing s a with
  | nil => rfl
  | cons v l ih => exact ih _ _
@[simp] theorem State.storeBytes_rpl (s : State) (a : Addr) (l : List Byte) : (s.storeBytes a l).rpl = s.rpl := by
  induction l generalizing s a with
  | nil => rfl
  | cons v l ih => exact ih _ _
@[simp] theorem State.storeBytes_fb (s : State) (a : Addr) (l : List Byte) : (s.storeBytes a l).fb = s.fb := by
  induction l generalizing s a with
  | nil => rfl
  | cons v l ih => exact ih _ _
@[simp] theorem State.storeBytes_mode (s : State) (a : Addr) (l : List Byte) : (s.storeBytes a l).mode = s.mode := by
  induction l generalizing s a with
  | nil => rfl
  | cons v l ih => exact ih _ _
@[simp] theorem State.storeBytes_redraw (s : State) (a : Addr) (l : List Byte) : (s.storeBytes a l).redraw = s.redraw := by
  induction l generalizing s a with
  | nil => rfl
  | cons v l ih => exact ih _ _
@[simp] theorem State.storeBytes_status (s : State) (a : Addr) (l : List Byte) : (s.storeBytes a l).status = s.status := by
  induction l generalizing s a with
  | nil => rfl
  | cons v l ih => exact ih _ _
@[simp] theorem State.storeBytes_cfg (s : State) (a : Addr) (l : List Byte) : (s.storeBytes a l).cfg = s.cfg := by
  induction l generalizing s a with
  | nil => rfl
  | cons v l ih => exact ih _ _
@[simp] theorem State.storeBytes_inputs (s : State) (a : Addr) (l : List Byte) : (s.storeBytes a l).inputs = s.inputs := by
  induction l generalizing s a with
  | nil => rfl
  | cons v l ih => exact ih _ _
@[simp] theorem State.storeBytes_turn (s : State) (a : Addr) (l : List Byte) : (s.storeBytes a l).turn = s.turn := by
  induction l generalizing s a with
  | nil => rfl
  | cons v l ih => exact ih _ _

/-- A block store changes memory alone. -/
theorem State.storeBytes_eq (s : State) (a : Addr) (l : List Byte) :
    s.storeBytes a l = { s with mem := (s.storeBytes a l).mem } := by
  induction l generalizing s a with
  | nil => rfl
  | cons v l ih => exact ih (s.writeByte a v) (a + 1#12)

@[simp] theorem State.storeBytes_toEnvironment (s : State) (a : Addr) (l : List Byte) :
    (s.storeBytes a l).toEnvironment = s.toEnvironment := by rw [State.storeBytes_eq]

end Sys2Proof.Machine
end

