-- ==== Sys2Proof/Laws/Framebuffer.lean ====
section
/-! SUPPORT. The framebuffer cell by cell: flips, rows, and the rows a scroll replaces (spec/10_state.md rule R37,
spec/44_display.md rules R162, R165 to R168). -/

namespace Sys2Proof.Machine

@[simp] theorem blankFb_getLsbD (j : Nat) : blankFb.getLsbD j = false := Nat.zero_testBit j

@[simp] theorem Fb.cell_blank (j : Nat) : Fb.cell blankFb j = false := blankFb_getLsbD j

/-- Two framebuffers with the same cells are equal. -/
theorem Fb.ext_cells {f g : Fb} (h : ∀ j, j < 8192 → Fb.cell f j = Fb.cell g j) : f = g :=
  BitVec.eq_of_getLsbD_eq h

/-- A flip changes its own cell and no other. -/
@[simp] theorem Fb.cell_flip (f : Fb) (j k : Nat) (hj : j < 8192) :
    Fb.cell (Fb.flip f j) k = if k = j then !Fb.cell f k else Fb.cell f k := by
  simp only [Fb.cell, Fb.flip, BitVec.getLsbD_xor, BitVec.getLsbD_twoPow, hj, decide_true, Bool.true_and]
  by_cases h : k = j
  · simp [h]
  · simp [h, Ne.symm h]

/-- Two flips of one cell undo each other (the XOR of R162). -/
theorem Fb.flip_flip (f : Fb) (j : Nat) : Fb.flip (Fb.flip f j) j = f := by
  simp [Fb.flip]

/-- A screen fits into the framebuffer. -/
theorem Mode.area_le (m : Mode) : m.width * m.height ≤ 8192 := by cases m <;> decide

theorem Mode.width_pos (m : Mode) : 0 < m.width := by cases m <;> decide

theorem Mode.height_pos (m : Mode) : 0 < m.height := by cases m <;> decide

/-- An on-screen position is one of the first W·H cells. -/
theorem Mode.cellAt_lt (m : Mode) {x y : Nat} (hx : x < m.width) (hy : y < m.height) :
    m.cellAt x y < m.width * m.height := by
  unfold Mode.cellAt
  calc y * m.width + x < y * m.width + m.width := by omega
    _ = (y + 1) * m.width := by ring
    _ ≤ m.height * m.width := Nat.mul_le_mul_right _ hy
    _ = m.width * m.height := Nat.mul_comm _ _

/-- Different on-screen positions are different cells. -/
theorem Mode.cellAt_inj (m : Mode) {x y x' y' : Nat} (hx : x < m.width) (hx' : x' < m.width) :
    m.cellAt x y = m.cellAt x' y' ↔ x = x' ∧ y = y' := by
  unfold Mode.cellAt
  constructor
  · intro h
    have h1 := congrArg (· % m.width) h
    have h2 := congrArg (· / m.width) h
    simp only [Nat.mul_add_mod_self_right, Nat.mod_eq_of_lt hx, Nat.mod_eq_of_lt hx'] at h1
    simp only [Nat.mul_comm _ m.width, Nat.mul_add_div m.width_pos, Nat.div_eq_of_lt hx, Nat.div_eq_of_lt hx',
      Nat.add_zero] at h2
    exact ⟨h1, h2⟩
  · rintro ⟨rfl, rfl⟩; rfl

/-- Every one of the first W·H cells is an on-screen position. -/
theorem Mode.exists_cellAt (m : Mode) {j : Nat} (hj : j < m.width * m.height) :
    ∃ x y, x < m.width ∧ y < m.height ∧ m.cellAt x y = j :=
  ⟨j % m.width, j / m.width, Nat.mod_lt _ m.width_pos, Nat.div_lt_of_lt_mul hj, by
    unfold Mode.cellAt
    rw [Nat.mul_comm]
    exact Nat.div_add_mod j m.width⟩

/-- Pixel x of row y. -/
theorem Fb.row_getLsbD (w : Nat) (f : Fb) (y x : Nat) (hx : x < w) :
    (Fb.row w f y).getLsbD x = Fb.cell f (y * w + x) := by
  simp [Fb.row, Fb.cell, hx]

/-- The cells of a screen put together from rows. -/
theorem Fb.cell_ofRows (w : Nat) (f : Nat → BitVec w) (h x y : Nat) (hx : x < w) (hb : h * w ≤ 8192) :
    Fb.cell (Fb.ofRows w f h) (y * w + x) = (decide (y < h) && (f y).getLsbD x) := by
  induction h with
  | zero => simp [Fb.ofRows, Fb.cell]
  | succ h ih =>
    have hb' : h * w + w ≤ 8192 := by rw [Nat.succ_mul] at hb; exact hb
    have ih' := ih (by omega)
    simp only [Fb.cell] at ih' ⊢
    simp only [Fb.ofRows, BitVec.getLsbD_or, ih', BitVec.getLsbD_shiftLeft, BitVec.getLsbD_setWidth]
    rcases lt_trichotomy y h with hy | rfl | hy
    · have : (y + 1) * w ≤ h * w := Nat.mul_le_mul_right _ hy
      rw [Nat.succ_mul] at this
      simp [hy, show y < h + 1 by omega, show y * w + x < h * w by omega]
    · simp [show y * w + x < 8192 by omega, show x < 8192 by omega]
    · have : (h + 1) * w ≤ y * w := Nat.mul_le_mul_right _ hy
      rw [Nat.succ_mul] at this
      have hge : (f h).getLsbD (y * w + x - h * w) = false := BitVec.getLsbD_of_ge _ _ (by omega)
      simp [show ¬ y < h by omega, show ¬ y < h + 1 by omega, hge]

/-- Beyond its rows a screen put together from rows has no cell set. -/
theorem Fb.cell_ofRows_of_ge (w : Nat) (f : Nat → BitVec w) (h j : Nat) (hj : h * w ≤ j) :
    Fb.cell (Fb.ofRows w f h) j = false := by
  induction h with
  | zero => simp [Fb.ofRows, Fb.cell]
  | succ h ih =>
    rw [Nat.succ_mul] at hj
    have ih' := ih (by omega)
    simp only [Fb.cell] at ih' ⊢
    have hge : (f h).getLsbD (j - h * w) = false := BitVec.getLsbD_of_ge _ _ (by omega)
    simp [Fb.ofRows, ih', hge]

/-- The pixels of a replaced screen are those of the new rows. -/
theorem Fb.cell_setScreen (m : Mode) (f : Nat → BitVec m.width) (fb : Fb) {x y : Nat} (hx : x < m.width)
    (hy : y < m.height) : Fb.cell (Fb.setScreen m f fb) (m.cellAt x y) = (f y).getLsbD x := by
  have hlt := m.cellAt_lt hx hy
  have hrows := Fb.cell_ofRows m.width f m.height x y hx (by rw [Nat.mul_comm]; exact m.area_le)
  simp only [Fb.cell, Mode.cellAt] at hrows hlt ⊢
  simp [Fb.setScreen, hrows, hlt, hy]

/-- Replacing the screen leaves the cells off the screen alone (R168). -/
theorem Fb.cell_setScreen_off (m : Mode) (f : Nat → BitVec m.width) (fb : Fb) {j : Nat}
    (hj : m.width * m.height ≤ j) : Fb.cell (Fb.setScreen m f fb) j = Fb.cell fb j := by
  have hrows := Fb.cell_ofRows_of_ge m.width f m.height j (by rw [Nat.mul_comm]; exact hj)
  simp only [Fb.cell] at hrows ⊢
  by_cases h : j < 8192
  · simp only [Fb.setScreen, BitVec.getLsbD_or, hrows, BitVec.getLsbD_shiftLeft, BitVec.getLsbD_ushiftRight]
    simp [h, show ¬ j < m.width * m.height by omega,
      show m.width * m.height + (j - m.width * m.height) = j by omega]
  · rw [BitVec.getLsbD_of_ge _ _ (by omega), BitVec.getLsbD_of_ge _ _ (by omega)]

theorem scrollDown_cell (m : Mode) (n : Nat) (fb : Fb) {x y : Nat} (hx : x < m.width) (hy : y < m.height) :
    Fb.cell (scrollDown m n fb) (m.cellAt x y) = if y ≥ n then Fb.cell fb (m.cellAt x (y - n)) else false := by
  rw [scrollDown, Fb.cell_setScreen m _ fb hx hy]
  split
  · exact Fb.row_getLsbD m.width fb (y - n) x hx
  · simp

theorem scrollRight4_cell (m : Mode) (fb : Fb) {x y : Nat} (hx : x < m.width) (hy : y < m.height) :
    Fb.cell (scrollRight4 m fb) (m.cellAt x y) = if x ≥ 4 then Fb.cell fb (m.cellAt (x - 4) y) else false := by
  rw [scrollRight4, Fb.cell_setScreen m _ fb hx hy, BitVec.getLsbD_shiftLeft]
  split
  · rw [Fb.row_getLsbD _ _ _ _ (by omega)]
    simp [hx, show ¬ x < 4 by omega, Mode.cellAt]
  · simp [show x < 4 by omega]

theorem scrollLeft4_cell (m : Mode) (fb : Fb) {x y : Nat} (hx : x < m.width) (hy : y < m.height) :
    Fb.cell (scrollLeft4 m fb) (m.cellAt x y) =
      if x + 4 < m.width then Fb.cell fb (m.cellAt (x + 4) y) else false := by
  rw [scrollLeft4, Fb.cell_setScreen m _ fb hx hy, BitVec.getLsbD_ushiftRight]
  split
  · rw [Nat.add_comm 4 x, Fb.row_getLsbD _ _ _ _ (by omega), Mode.cellAt]
  · exact BitVec.getLsbD_of_ge _ _ (by omega)

end Sys2Proof.Machine
end

