-- ==== Sys2Proof/Laws/Blitter.lean ====
section
/-! SUPPORT. The sprite blitter: which pixels a sprite has, and what drawing a list of pixels does to each cell and to
the collision flag (spec/44_display.md rules R160 to R162). -/

namespace Sys2Proof.Machine

/-- The pixels of a sprite are its positions whose bit is 1 (R161). -/
theorem mem_spritePixels (s : State) (n : Nibble) (c r : Nat) :
    (c, r) ∈ s.spritePixels n ↔ c < spriteWidth n ∧ r < spriteHeight s.mode n ∧ s.spriteBit n c r = true := by
  simp only [State.spritePixels, List.mem_flatMap, List.mem_map, List.mem_filter, List.mem_range, Prod.mk.injEq]
  constructor
  · rintro ⟨r', hr, c', ⟨hc, hb⟩, rfl, rfl⟩
    exact ⟨hc, hr, hb⟩
  · rintro ⟨hc, hr, hb⟩
    exact ⟨r, hr, c, ⟨hc, hb⟩, rfl, rfl⟩

/-- Each pixel of a sprite is drawn once. -/
theorem nodup_spritePixels (s : State) (n : Nibble) : (s.spritePixels n).Nodup := by
  unfold State.spritePixels
  rw [List.nodup_flatMap]
  constructor
  · intro r _
    exact (List.nodup_range.filter _).map fun a b h => (Prod.mk.inj h).1
  · refine List.nodup_range.imp_of_mem fun {a b} _ _ hab => ?_
    simp only [Function.onFun, List.disjoint_left, List.mem_map]
    rintro _ ⟨c, _, rfl⟩ ⟨c', _, h⟩
    exact hab (Prod.mk.inj h).2.symm

/-- One pixel drawn on the screen flips its cell; off the screen it is clipped (R162). -/
theorem blitPixel_cases (m : Mode) (x0 y0 : Nat) (acc : Fb × Bool) (p : Nat × Nat) :
    ((x0 + p.1 ≥ m.width ∨ y0 + p.2 ≥ m.height) ∧ blitPixel m x0 y0 acc p = acc) ∨
    (x0 + p.1 < m.width ∧ y0 + p.2 < m.height ∧ blitPixel m x0 y0 acc p =
      (Fb.flip acc.1 (m.cellAt (x0 + p.1) (y0 + p.2)),
        acc.2 || Fb.cell acc.1 (m.cellAt (x0 + p.1) (y0 + p.2)))) := by
  unfold blitPixel
  split
  · exact .inl ⟨by assumption, rfl⟩
  · exact .inr ⟨by omega, by omega, rfl⟩

/-- Drawing a list of different pixels flips each on-screen position hit, leaves every other cell, and collides
exactly when a hit cell was 1 (R162). -/
theorem blitFold_spec (m : Mode) (x0 y0 : Nat) (ps : List (Nat × Nat)) (hnd : ps.Nodup) (acc : Fb × Bool) :
    (∀ x y, x < m.width → y < m.height →
      ((∃ p ∈ ps, x = x0 + p.1 ∧ y = y0 + p.2) →
        Fb.cell (ps.foldl (blitPixel m x0 y0) acc).1 (m.cellAt x y) = !Fb.cell acc.1 (m.cellAt x y)) ∧
      ((¬ ∃ p ∈ ps, x = x0 + p.1 ∧ y = y0 + p.2) →
        Fb.cell (ps.foldl (blitPixel m x0 y0) acc).1 (m.cellAt x y) = Fb.cell acc.1 (m.cellAt x y))) ∧
    (∀ j, m.width * m.height ≤ j → Fb.cell (ps.foldl (blitPixel m x0 y0) acc).1 j = Fb.cell acc.1 j) ∧
    ((ps.foldl (blitPixel m x0 y0) acc).2 = true ↔ acc.2 = true ∨
      ∃ x y, x < m.width ∧ y < m.height ∧ (∃ p ∈ ps, x = x0 + p.1 ∧ y = y0 + p.2) ∧
        Fb.cell acc.1 (m.cellAt x y) = true) := by
  induction ps generalizing acc with
  | nil => simp
  | cons p ps ih =>
    obtain ⟨hp, hnd'⟩ := List.nodup_cons.mp hnd
    obtain ⟨ihc, iho, ihf⟩ := ih hnd' (blitPixel m x0 y0 acc p)
    simp only [List.foldl_cons]
    have fresh : ¬ ∃ q ∈ ps, x0 + p.1 = x0 + q.1 ∧ y0 + p.2 = y0 + q.2 := by
      rintro ⟨q, hq, h1, h2⟩
      exact hp (by rwa [show p = q from Prod.ext (by omega) (by omega)])
    rcases blitPixel_cases m x0 y0 acc p with ⟨hoff, he⟩ | ⟨hx0, hy0, he⟩
    · rw [he] at ihc iho ihf ⊢
      have drop : ∀ x y, x < m.width → y < m.height →
          ((∃ q ∈ p :: ps, x = x0 + q.1 ∧ y = y0 + q.2) ↔ ∃ q ∈ ps, x = x0 + q.1 ∧ y = y0 + q.2) := by
        intro x y hx hy
        constructor
        · rintro ⟨q, hq, h1, h2⟩
          rcases List.mem_cons.mp hq with rfl | hq
          · omega
          · exact ⟨q, hq, h1, h2⟩
        · rintro ⟨q, hq, h⟩
          exact ⟨q, List.mem_cons_of_mem _ hq, h⟩
      refine ⟨fun x y hx hy => by rw [drop x y hx hy]; exact ihc x y hx hy, iho, ihf.trans ?_⟩
      constructor
      · rintro (h | ⟨x, y, hx, hy, hh, hc⟩)
        · exact .inl h
        · exact .inr ⟨x, y, hx, hy, (drop x y hx hy).mpr hh, hc⟩
      · rintro (h | ⟨x, y, hx, hy, hh, hc⟩)
        · exact .inl h
        · exact .inr ⟨x, y, hx, hy, (drop x y hx hy).mp hh, hc⟩
    · have hlt : m.cellAt (x0 + p.1) (y0 + p.2) < 8192 := lt_of_lt_of_le (m.cellAt_lt hx0 hy0) m.area_le
      have flipped : ∀ k, Fb.cell (blitPixel m x0 y0 acc p).1 k =
          if k = m.cellAt (x0 + p.1) (y0 + p.2) then !Fb.cell acc.1 k else Fb.cell acc.1 k := fun k => by
        rw [he]; exact Fb.cell_flip _ _ _ hlt
      refine ⟨fun x y hx hy => ?_, fun j hj => ?_, ihf.trans ?_⟩
      · by_cases hxy : x = x0 + p.1 ∧ y = y0 + p.2
        · obtain ⟨rfl, rfl⟩ := hxy
          refine ⟨fun _ => ?_, fun h => absurd ⟨p, List.mem_cons_self, rfl, rfl⟩ h⟩
          rw [(ihc _ _ hx hy).2 fresh, flipped, if_pos rfl]
        · have hne : m.cellAt x y ≠ m.cellAt (x0 + p.1) (y0 + p.2) :=
            fun h => hxy ((m.cellAt_inj hx hx0).mp h)
          have keep := flipped (m.cellAt x y)
          rw [if_neg hne] at keep
          refine ⟨fun h => ?_, fun h => ?_⟩
          · rw [← keep]
            refine (ihc x y hx hy).1 ?_
            obtain ⟨q, hq, h1, h2⟩ := h
            rcases List.mem_cons.mp hq with rfl | hq
            · exact absurd ⟨h1, h2⟩ hxy
            · exact ⟨q, hq, h1, h2⟩
          · rw [← keep]
            exact (ihc x y hx hy).2 fun ⟨q, hq, hh⟩ => h ⟨q, List.mem_cons_of_mem _ hq, hh⟩
      · rw [iho j hj, flipped, if_neg (by have := m.cellAt_lt hx0 hy0; omega)]
      · have hflag : (blitPixel m x0 y0 acc p).2 = true ↔
            acc.2 = true ∨ Fb.cell acc.1 (m.cellAt (x0 + p.1) (y0 + p.2)) = true := by
          rw [he]; simp
        rw [hflag]
        constructor
        · rintro ((h | h) | ⟨x, y, hx, hy, ⟨q, hq, h1, h2⟩, hc⟩)
          · exact .inl h
          · exact .inr ⟨_, _, hx0, hy0, ⟨p, List.mem_cons_self, rfl, rfl⟩, h⟩
          · refine .inr ⟨x, y, hx, hy, ⟨q, List.mem_cons_of_mem _ hq, h1, h2⟩, ?_⟩
            rwa [flipped, if_neg] at hc
            intro heq
            obtain ⟨e1, e2⟩ := (m.cellAt_inj hx hx0).mp heq
            exact fresh ⟨q, hq, by omega, by omega⟩
        · rintro (h | ⟨x, y, hx, hy, ⟨q, hq, h1, h2⟩, hc⟩)
          · exact .inl (.inl h)
          · rcases List.mem_cons.mp hq with rfl | hq
            · exact .inl (.inr (by rwa [← h1, ← h2]))
            · refine .inr ⟨x, y, hx, hy, ⟨q, hq, h1, h2⟩, ?_⟩
              rw [flipped, if_neg]
              · exact hc
              · intro heq
                obtain ⟨e1, e2⟩ := (m.cellAt_inj hx hx0).mp heq
                exact fresh ⟨q, hq, by omega, by omega⟩

/-- A draw of `State.blit`: see `blitFold_spec`. -/
theorem blit_spec (s : State) (x0 y0 : Nat) (n : Nibble) :
    (∀ x y, x < s.mode.width → y < s.mode.height →
      ((∃ p ∈ s.spritePixels n, x = x0 + p.1 ∧ y = y0 + p.2) →
        Fb.cell (s.blit x0 y0 n).1 (s.mode.cellAt x y) = !Fb.cell s.fb (s.mode.cellAt x y)) ∧
      ((¬ ∃ p ∈ s.spritePixels n, x = x0 + p.1 ∧ y = y0 + p.2) →
        Fb.cell (s.blit x0 y0 n).1 (s.mode.cellAt x y) = Fb.cell s.fb (s.mode.cellAt x y))) ∧
    (∀ j, s.mode.width * s.mode.height ≤ j → Fb.cell (s.blit x0 y0 n).1 j = Fb.cell s.fb j) ∧
    ((s.blit x0 y0 n).2 = true ↔
      ∃ x y, x < s.mode.width ∧ y < s.mode.height ∧ (∃ p ∈ s.spritePixels n, x = x0 + p.1 ∧ y = y0 + p.2) ∧
        Fb.cell s.fb (s.mode.cellAt x y) = true) := by
  simpa [State.blit] using blitFold_spec s.mode x0 y0 (s.spritePixels n) (nodup_spritePixels s n) (s.fb, false)

end Sys2Proof.Machine
end

