-- ==== Sys2Proof/Laws/Decode.lean ====
section
/-! SUPPORT. The fields of a word put together in each format of spec/30_encoding.md rule R82. -/

namespace Sys2Proof

theorem fieldMajor_eq (a : Nibble) (b : Addr) : fieldMajor (a ++ b) = a := by
  apply BitVec.eq_of_getLsbD_eq
  intro i hi
  simp only [fieldMajor, BitVec.getLsbD_extractLsb', BitVec.getLsbD_append]
  simp [hi, show ¬ 12 + i < 12 by omega]

theorem fieldNNN_eq (a : Nibble) (b : Addr) : fieldNNN (a ++ b) = b := by
  apply BitVec.eq_of_getLsbD_eq
  intro i hi
  simp only [fieldNNN, BitVec.getLsbD_extractLsb', BitVec.getLsbD_append]
  simp [hi]

theorem fieldMajor_xnn (a x : Nibble) (b : Byte) : fieldMajor (a ++ x ++ b) = a := by
  apply BitVec.eq_of_getLsbD_eq
  intro i hi
  simp only [fieldMajor, BitVec.getLsbD_extractLsb', BitVec.getLsbD_append]
  simp [hi, show ¬ 12 + i < 8 by omega, show ¬ 12 + i - 8 < 4 by omega, show 12 + i - 8 - 4 = i by omega]

theorem fieldX_xnn (a x : Nibble) (b : Byte) : fieldX (a ++ x ++ b) = x := by
  apply BitVec.eq_of_getLsbD_eq
  intro i hi
  simp only [fieldX, BitVec.getLsbD_extractLsb', BitVec.getLsbD_append]
  simp [hi]

theorem fieldNN_xnn (a x : Nibble) (b : Byte) : fieldNN (a ++ x ++ b) = b := by
  apply BitVec.eq_of_getLsbD_eq
  intro i hi
  simp only [fieldNN, BitVec.getLsbD_extractLsb', BitVec.getLsbD_append]
  simp [hi]

theorem fieldMajor_xyn (a x y n : Nibble) : fieldMajor (a ++ x ++ y ++ n) = a := by
  apply BitVec.eq_of_getLsbD_eq
  intro i hi
  simp only [fieldMajor, BitVec.getLsbD_extractLsb', BitVec.getLsbD_append]
  simp [hi, show ¬ 12 + i < 4 by omega, show ¬ 12 + i - 4 < 4 by omega, show ¬ 12 + i - 4 - 4 < 4 by omega,
    show 12 + i - 4 - 4 - 4 = i by omega]

theorem fieldX_xyn (a x y n : Nibble) : fieldX (a ++ x ++ y ++ n) = x := by
  apply BitVec.eq_of_getLsbD_eq
  intro i hi
  simp only [fieldX, BitVec.getLsbD_extractLsb', BitVec.getLsbD_append]
  simp [hi, show ¬ 8 + i < 4 by omega, show ¬ 8 + i - 4 < 4 by omega, show 8 + i - 4 - 4 = i by omega]

theorem fieldY_xyn (a x y n : Nibble) : fieldY (a ++ x ++ y ++ n) = y := by
  apply BitVec.eq_of_getLsbD_eq
  intro i hi
  simp only [fieldY, BitVec.getLsbD_extractLsb', BitVec.getLsbD_append]
  simp [hi]

theorem fieldN_xyn (a x y n : Nibble) : fieldN (a ++ x ++ y ++ n) = n := by
  apply BitVec.eq_of_getLsbD_eq
  intro i hi
  simp only [fieldN, BitVec.getLsbD_extractLsb', BitVec.getLsbD_append]
  simp [hi]

theorem fieldMajor_scroll (n : Nibble) : fieldMajor (0x00C#12 ++ n) = 0x0#4 := by decide +revert

theorem fieldX_scroll (n : Nibble) : fieldX (0x00C#12 ++ n) = 0x0#4 := by decide +revert

theorem fieldY_scroll (n : Nibble) : fieldY (0x00C#12 ++ n) = 0xC#4 := by decide +revert

theorem fieldN_scroll (n : Nibble) : fieldN (0x00C#12 ++ n) = n := by decide +revert

/-- A word is its major opcode before its 12-bit address field. -/
theorem word_eq_addr (w : Word) : w = fieldMajor w ++ fieldNNN w := by
  apply BitVec.eq_of_getLsbD_eq
  intro i hi
  simp only [fieldMajor, fieldNNN, BitVec.getLsbD_extractLsb', BitVec.getLsbD_append]
  by_cases h : i < 12
  · simp [h]
  · simp [h, show i - 12 < 4 by omega, show 12 + (i - 12) = i by omega]

/-- A word is its major opcode, its X field and its low byte. -/
theorem word_eq_xnn (w : Word) : w = fieldMajor w ++ fieldX w ++ fieldNN w := by
  apply BitVec.eq_of_getLsbD_eq
  intro i hi
  simp only [fieldMajor, fieldX, fieldNN, BitVec.getLsbD_extractLsb', BitVec.getLsbD_append]
  by_cases h : i < 8
  · simp [h]
  · by_cases h' : i < 12
    · simp [h, show i - 8 < 4 by omega, show 8 + (i - 8) = i by omega]
    · simp [h, show ¬ i - 8 < 4 by omega, show i - 8 - 4 < 4 by omega, show 12 + (i - 8 - 4) = i by omega]

/-- A word is its four nibbles, "split into four 4-bit nibbles [n0,n1,n2,n3]" (R81). -/
theorem word_eq_xyn (w : Word) : w = fieldMajor w ++ fieldX w ++ fieldY w ++ fieldN w := by
  apply BitVec.eq_of_getLsbD_eq
  intro i hi
  simp only [fieldMajor, fieldX, fieldY, fieldN, BitVec.getLsbD_extractLsb', BitVec.getLsbD_append]
  by_cases h : i < 4
  · simp [h]
  · by_cases h' : i < 8
    · simp [h, show i - 4 < 4 by omega, show 4 + (i - 4) = i by omega]
    · by_cases h'' : i < 12
      · simp [h, show ¬ i - 4 < 4 by omega, show i - 4 - 4 < 4 by omega, show 8 + (i - 4 - 4) = i by omega]
      · simp [h, show ¬ i - 4 < 4 by omega, show ¬ i - 4 - 4 < 4 by omega, show i - 4 - 4 - 4 < 4 by omega,
          show 12 + (i - 4 - 4 - 4) = i by omega]

/-- The two bytes of a word give the word back (R61). -/
theorem wordOfBytes_bytes (w : Word) : wordOfBytes (highByte w) (lowByte w) = w := by
  apply BitVec.eq_of_getLsbD_eq
  intro i hi
  simp only [wordOfBytes, highByte, lowByte, BitVec.getLsbD_extractLsb', BitVec.getLsbD_append]
  by_cases h : i < 8
  · simp [h]
  · simp [h, show i - 8 < 8 by omega, show 8 + (i - 8) = i by omega]

/-- The mask F000 keeps the major opcode of an address word. -/
theorem mask_addr (a : Nibble) (b : Addr) : (a ++ b : Word) &&& (0xF000 : Word) = a ++ 0x000#12 := by
  rw [show (0xF000 : Word) = (0xF#4 ++ 0x000#12 : Word) from by decide, BitVec.and_append]
  congr 1
  · decide +revert
  · exact BitVec.and_zero

/-- The mask F000 keeps the major opcode of a register and immediate word. -/
theorem mask_xnn (a x : Nibble) (b : Byte) : (a ++ x ++ b : Word) &&& (0xF000 : Word) = a ++ 0x0#4 ++ 0x00#8 := by
  rw [show (0xF000 : Word) = (0xF#4 ++ 0x0#4 ++ 0x00#8 : Word) from by decide, BitVec.and_append, BitVec.and_append]
  congr 1
  · congr 1
    · decide +revert
    · exact BitVec.and_zero
  · exact BitVec.and_zero

/-- The mask F0FF drops the X field of a register and minor opcode word. -/
theorem mask_xkk (a x : Nibble) (b : Byte) : (a ++ x ++ b : Word) &&& (0xF0FF : Word) = a ++ 0x0#4 ++ b := by
  rw [show (0xF0FF : Word) = (0xF#4 ++ 0x0#4 ++ 0xFF#8 : Word) from by decide, BitVec.and_append, BitVec.and_append]
  congr 1
  · congr 1
    · decide +revert
    · exact BitVec.and_zero
  · decide +revert

/-- The mask F00F drops the X and Y fields of a two-register word. -/
theorem mask_xyk (a x y n : Nibble) :
    (a ++ x ++ y ++ n : Word) &&& (0xF00F : Word) = a ++ 0x0#4 ++ 0x0#4 ++ n := by
  rw [show (0xF00F : Word) = (0xF#4 ++ 0x0#4 ++ 0x0#4 ++ 0xF#4 : Word) from by decide, BitVec.and_append,
    BitVec.and_append, BitVec.and_append]
  congr 1
  · congr 1
    · congr 1
      · decide +revert
      · exact BitVec.and_zero
    · exact BitVec.and_zero
  · decide +revert

/-- The mask F000 keeps the major opcode of a draw word. -/
theorem mask_xyn (a x y n : Nibble) :
    (a ++ x ++ y ++ n : Word) &&& (0xF000 : Word) = a ++ 0x0#4 ++ 0x0#4 ++ 0x0#4 := by
  rw [show (0xF000 : Word) = (0xF#4 ++ 0x0#4 ++ 0x0#4 ++ 0x0#4 : Word) from by decide, BitVec.and_append,
    BitVec.and_append, BitVec.and_append]
  congr 1
  · congr 1
    · congr 1
      · decide +revert
      · exact BitVec.and_zero
    · exact BitVec.and_zero
  · exact BitVec.and_zero

end Sys2Proof
end

