-- ==== Sys2Proof/Laws/Memory.lean ====
section
/-! SUPPORT. Memory: reading after writing, and that every memory operation keeps the canonical form. -/

namespace Sys2Proof.Machine

/-! ### The list of cells -/

/-- Cells at other addresses do not matter to a read. -/
theorem Memory.read_filter (c : Config) (p : Host.Cell → Bool) (m : List Host.Cell) (b : Nat)
    (h : ∀ e ∈ m, e.1 = b → p e = true) : Memory.read c (m.filter p) b = Memory.read c m b := by
  induction m with
  | nil => rfl
  | cons e m ih =>
    have ih' := ih fun e' he' => h e' (List.mem_cons_of_mem _ he')
    by_cases hb : e.1 = b
    · simp [Memory.read, h e List.mem_cons_self hb, hb]
    · by_cases hp : p e = true <;> simp [Memory.read, hp, hb, ih']

/-- A read of no cells gives the unlisted value. -/
theorem Memory.read_nil (c : Config) (b : Nat) : Memory.read c [] b = Memory.unlisted c b := rfl

/-- A read passes over cells at other addresses. -/
theorem Memory.read_append (c : Config) (m m' : List Host.Cell) (b : Nat) (h : ∀ e ∈ m, e.1 ≠ b) :
    Memory.read c (m ++ m') b = Memory.read c m' b := by
  induction m with
  | nil => rfl
  | cons e m ih =>
    simp only [List.cons_append, Memory.read, if_neg (h e List.mem_cons_self)]
    exact ih fun e' he' => h e' (List.mem_cons_of_mem _ he')

/-- Read after write: the byte written at its address, every other byte as before, on any list of cells. -/
theorem Memory.read_write (c : Config) (m : List Host.Cell) (a b : Nat) (v : Byte) :
    Memory.read c (Memory.write c m a v) b = if b = a then v else Memory.read c m b := by
  have low : ∀ e ∈ m.filter (fun e => e.1 < a), e.1 < a := fun e he => by
    simpa using (List.mem_filter.mp he).2
  have high : ∀ e ∈ m.filter (fun e => a < e.1), a < e.1 := fun e he => by
    simpa using (List.mem_filter.mp he).2
  unfold Memory.write
  rw [List.append_assoc]
  rcases lt_trichotomy b a with hb | hb | hb
  · rw [if_neg (by omega)]
    have tail : Memory.read c (Memory.cell c a v ++ m.filter (fun e => a < e.1)) b = Memory.unlisted c b := by
      rw [Memory.read_append c _ _ b (fun e he => by
        unfold Memory.cell at he
        split at he <;> simp_all
        omega)]
      have : ∀ l : List Host.Cell, (∀ e ∈ l, e.1 ≠ b) → Memory.read c l b = Memory.unlisted c b := fun l hl => by
        simpa [Memory.read_nil] using Memory.read_append c l [] b hl
      exact this _ fun e he => by have := high e he; omega
    rw [← Memory.read_filter c (fun e => e.1 < a) m b fun e _ he => by simp [he, hb]]
    generalize m.filter (fun e => e.1 < a) = l
    induction l with
    | nil => exact tail
    | cons e l ih => simp only [List.cons_append, Memory.read, ih]
  · subst hb
    rw [if_pos rfl, Memory.read_append c _ _ b fun e he => by have := low e he; omega]
    unfold Memory.cell
    split
    · rename_i hv
      rw [List.nil_append, hv]
      have := Memory.read_append c (m.filter (fun e => b < e.1)) [] b fun e he => by have := high e he; omega
      simpa [Memory.read_nil] using this
    · simp [Memory.read]
  · rw [if_neg (by omega), Memory.read_append c _ _ b fun e he => by have := low e he; omega,
      Memory.read_append c _ _ b fun e he => by
        unfold Memory.cell at he
        split at he <;> simp_all
        omega,
      Memory.read_filter c (fun e => a < e.1) m b fun e _ he => by simp [he, hb]]

/-- A write inside the address space keeps the canonical form. -/
theorem Memory.wf_write (c : Config) (m : List Host.Cell) (a : Nat) (v : Byte) (ha : a < 0x1000)
    (h : Memory.wf c m) : Memory.wf c (Memory.write c m a v) := by
  have low : ∀ e ∈ m.filter (fun e => e.1 < a), e ∈ m ∧ e.1 < a := fun e he => by simpa using he
  have high : ∀ e ∈ m.filter (fun e => a < e.1), e ∈ m ∧ a < e.1 := fun e he => by simpa using he
  have mid : ∀ e ∈ Memory.cell c a v, e = (a, v) ∧ v ≠ Memory.unlisted c a := fun e he => by
    unfold Memory.cell at he
    split at he <;> simp_all
  refine ⟨?_, fun e he => ?_⟩
  · unfold Memory.write
    rw [List.pairwise_append, List.pairwise_append]
    refine ⟨⟨h.1.filter _, ?_, fun e he e' he' => ?_⟩, h.1.filter _, fun e he e' he' => ?_⟩
    · unfold Memory.cell; split <;> simp
    · rw [(mid e' he').1]; exact (low e he).2
    · have h' := (high e' he').2
      rcases List.mem_append.mp he with he | he
      · have := (low e he).2; omega
      · rw [(mid e he).1]; exact h'
  · simp only [Memory.write, List.mem_append] at he
    rcases he with (he | he) | he
    · exact h.2 e (low e he).1
    · obtain ⟨rfl, hv⟩ := mid e he
      exact ⟨ha, hv⟩
    · exact h.2 e (high e he).1

/-! ### The state's memory -/

/-- Reads depend on memory and the font parameters alone. -/
theorem State.readByte_congr {s t : State} (hm : t.mem = s.mem) (hc : t.cfg = s.cfg) (a : Addr) :
    t.readByte a = s.readByte a := by
  simp only [State.readByte, hm, hc]

@[simp] theorem State.readByte_writeByte (s : State) (a b : Addr) (v : Byte) :
    (s.writeByte a v).readByte b = if b = a then v else s.readByte b := by
  simp only [State.readByte, State.writeByte_mem, State.writeByte_cfg, Memory.read_write, BitVec.toNat_inj]

/-- A write to memory keeps the canonical form. -/
theorem State.wf_writeByte (s : State) (a : Addr) (v : Byte) (h : Memory.wf s.cfg s.mem) :
    Memory.wf (s.writeByte a v).cfg (s.writeByte a v).mem :=
  Memory.wf_write s.cfg s.mem a.toNat v a.isLt h

/-- A block store to memory keeps the canonical form. -/
theorem State.wf_storeBytes (s : State) (a : Addr) (l : List Byte) (h : Memory.wf s.cfg s.mem) :
    Memory.wf (s.storeBytes a l).cfg (s.storeBytes a l).mem := by
  induction l generalizing s a with
  | nil => exact h
  | cons v l ih => exact ih _ _ (State.wf_writeByte s a v h)

/-- A byte outside a block store reads as before. -/
theorem State.readByte_storeBytes_other (s : State) (a b : Addr) (l : List Byte)
    (h : ∀ k, k < l.length → b ≠ a + BitVec.ofNat 12 k) : (s.storeBytes a l).readByte b = s.readByte b := by
  induction l generalizing s a with
  | nil => rfl
  | cons v l ih =>
    have h0 : b ≠ a := by simpa using h 0 (by simp)
    rw [State.storeBytes, ih _ _ fun k hk => ?_, State.readByte_writeByte, if_neg h0]
    have := h (k + 1) (by simpa using hk)
    rwa [show a + BitVec.ofNat 12 (k + 1) = a + 1#12 + BitVec.ofNat 12 k by
      rw [BitVec.add_assoc]; congr 1; apply BitVec.eq_of_toNat_eq; simp; omega] at this

/-- Byte k of a block store reads back at `a + k`, the block being no longer than memory. -/
theorem State.readByte_storeBytes (s : State) (a : Addr) (l : List Byte) (k : Nat) (hk : k < l.length)
    (hl : l.length ≤ 0x1000) : (s.storeBytes a l).readByte (a + BitVec.ofNat 12 k) = l[k] := by
  induction l generalizing s a k with
  | nil => simp at hk
  | cons v l ih =>
    cases k with
    | zero =>
      rw [State.storeBytes, State.readByte_storeBytes_other]
      · simp
      · intro j hj heq
        have h := congrArg BitVec.toNat heq
        simp only [List.length_cons] at hl
        simp only [BitVec.toNat_add, BitVec.toNat_ofNat] at h
        omega
    | succ k =>
      have := ih (s.writeByte a v) (a + 1#12) k (by simpa using hk) (by simp at hl; omega)
      rwa [show a + 1#12 + BitVec.ofNat 12 k = a + BitVec.ofNat 12 (k + 1) by
        rw [BitVec.add_assoc]; congr 1; apply BitVec.eq_of_toNat_eq; simp; omega] at this

@[simp] theorem State.readByte_setV (s : State) (x : Reg) (v : Byte) (a : Addr) :
    (s.setV x v).readByte a = s.readByte a := rfl
@[simp] theorem State.readByte_loadV (s : State) (n : Nat) (f : Nat → Byte) (a : Addr) :
    (s.loadV n f).readByte a = s.readByte a := rfl
@[simp] theorem State.readByte_storeRpl (s : State) (n : Nat) (f : Nat → Byte) (a : Addr) :
    (s.storeRpl n f).readByte a = s.readByte a := rfl
@[simp] theorem State.readByte_jumpTo (s : State) (t : Word) (a : Addr) :
    (s.jumpTo t).readByte a = s.readByte a := rfl
@[simp] theorem State.readByte_advance (s : State) (a : Addr) : s.advance.readByte a = s.readByte a := rfl
@[simp] theorem State.readByte_skipIf (s : State) (c : Bool) (a : Addr) :
    (s.skipIf c).readByte a = s.readByte a := rfl
@[simp] theorem State.readByte_push (s : State) (w : Word) (a : Addr) : (s.push w).readByte a = s.readByte a := rfl
@[simp] theorem State.readByte_pop (s : State) (a : Addr) : s.pop.readByte a = s.readByte a := rfl
@[simp] theorem State.readByte_setFlag (s : State) (f : Bool) (a : Addr) :
    (s.setFlag f).readByte a = s.readByte a := rfl
@[simp] theorem State.readByte_setWithFlag (s : State) (x : Reg) (r : Byte × Bool) (a : Addr) :
    (s.setWithFlag x r).readByte a = s.readByte a := rfl
@[simp] theorem State.readByte_setFb (s : State) (fb : Fb) (a : Addr) : (s.setFb fb).readByte a = s.readByte a := rfl
@[simp] theorem State.readByte_switchMode (s : State) (m : Mode) (a : Addr) :
    (s.switchMode m).readByte a = s.readByte a := rfl
@[simp] theorem State.readByte_afterDraw (s : State) (r : Fb × Bool) (a : Addr) :
    (s.afterDraw r).readByte a = s.readByte a := rfl
@[simp] theorem State.readByte_consumeInput (s : State) (a : Addr) :
    s.consumeInput.readByte a = s.readByte a := rfl

/-- The memory of reset is canonical. -/
theorem State.reset_wf : Memory.wf State.reset.cfg State.reset.mem :=
  ⟨List.Pairwise.nil, fun _ h => absurd h List.not_mem_nil⟩

end Sys2Proof.Machine
end

