-- ==== Sys2Proof/Laws/Registers.lean ====
section
/-! SUPPORT. Reading a register after each update of the state (spec/10_state.md rules R21 to R24, R29). -/

namespace Sys2Proof.Machine

theorem State.getV_eq (s : State) (z : Reg) : s.getV z = s.V[z.toNat]'(z.isLt) := rfl

/-- Reading the register file as a vector and through `getV` agree. -/
theorem State.getV_congr {s t : State} (h : t.V = s.V) (z : Reg) : t.getV z = s.getV z := by
  simp only [State.getV, h]

@[simp] theorem State.getV_setV (s : State) (x z : Reg) (v : Byte) :
    (s.setV x v).getV z = if z = x then v else s.getV z := by
  simp only [State.getV, State.setV_V, Vector.getElem_set, BitVec.toNat_inj, eq_comm]

/-- The flag lands in VF and nowhere else. -/
@[simp] theorem State.getV_setFlag (s : State) (z : Reg) (f : Bool) :
    (s.setFlag f).getV z = if z = 0xF#4 then flagByte f else s.getV z :=
  State.getV_setV s regVF z (flagByte f)

/-- The flag order of R24: the flag written last hides a result in VF. -/
@[simp] theorem State.getV_setWithFlag (s : State) (x z : Reg) (r : Byte × Bool) :
    (s.setWithFlag x r).getV z = if z = 0xF#4 then flagByte r.2 else if z = x then r.1 else s.getV z := by
  simp only [State.setWithFlag, State.getV_setFlag, State.getV_setV]

@[simp] theorem State.getV_loadV (s : State) (n : Nat) (f : Nat → Byte) (z : Reg) :
    (s.loadV n f).getV z = if z.toNat < n then f z.toNat else s.getV z := by
  simp only [State.getV, State.loadV_V, Vector.getElem_mapFinIdx]

@[simp] theorem State.getV_afterDraw (s : State) (z : Reg) (r : Fb × Bool) :
    (s.afterDraw r).getV z = if z = 0xF#4 then flagByte r.2 else s.getV z :=
  State.getV_setFlag (s.setFb r.1) z r.2

@[simp] theorem State.getV_jumpTo (s : State) (t : Word) (z : Reg) : (s.jumpTo t).getV z = s.getV z := rfl
@[simp] theorem State.getV_advance (s : State) (z : Reg) : s.advance.getV z = s.getV z := rfl
@[simp] theorem State.getV_skipIf (s : State) (c : Bool) (z : Reg) : (s.skipIf c).getV z = s.getV z := rfl
@[simp] theorem State.getV_writeByte (s : State) (a : Addr) (v : Byte) (z : Reg) :
    (s.writeByte a v).getV z = s.getV z := rfl
@[simp] theorem State.getV_storeBytes (s : State) (a : Addr) (l : List Byte) (z : Reg) :
    (s.storeBytes a l).getV z = s.getV z := State.getV_congr (State.storeBytes_V s a l) z
@[simp] theorem State.getV_storeRpl (s : State) (n : Nat) (f : Nat → Byte) (z : Reg) :
    (s.storeRpl n f).getV z = s.getV z := rfl
@[simp] theorem State.getV_setFb (s : State) (fb : Fb) (z : Reg) : (s.setFb fb).getV z = s.getV z := rfl
@[simp] theorem State.getV_switchMode (s : State) (m : Mode) (z : Reg) : (s.switchMode m).getV z = s.getV z := rfl
@[simp] theorem State.getV_push (s : State) (a : Word) (z : Reg) : (s.push a).getV z = s.getV z := rfl
@[simp] theorem State.getV_pop (s : State) (z : Reg) : s.pop.getV z = s.getV z := rfl
@[simp] theorem State.getV_consumeInput (s : State) (z : Reg) : s.consumeInput.getV z = s.getV z := rfl

/-- The RPL slots after a store: the first `n` hold the new values, the others are unchanged. -/
theorem State.storeRpl_getElem (s : State) (n : Nat) (f : Nat → Byte) (i : Nat) (h : i < 8) :
    (s.storeRpl n f).rpl[i]? = some (if i < n then f i else s.rpl[i]) := by
  simp only [State.storeRpl_rpl, Vector.getElem?_eq_getElem h, Vector.getElem_mapFinIdx]

theorem State.getRpl_eq (s : State) (i : Nat) (h : i < 8) : s.rpl[i]? = some (s.getRpl i) := by
  simp only [State.getRpl, Vector.getElem?_eq_getElem h, Option.getD_some]

end Sys2Proof.Machine
end

