-- ==== Sys2Proof/Laws/Ops.lean ====
section
/-! SUPPORT. One lemma per shared operation that says everything it can do: the checks that raise a fault, the stack,
the inputs, the flag results, and one step of the machine. -/

namespace Sys2Proof.Machine

/-- Fault entry answers a next state that differs in the status alone (R211). -/
theorem raise_eq_next {f : Fault} {s t : State} : raise f s = .next t ↔ t = { s with status := .faulted f } := by
  simp only [raise, Host.Outcome.next.injEq, eq_comm]

/-- The address check (R68): the fault with the highest address, or the body. -/
theorem withRange_cases (s : State) (count : Nat) (body : Result) :
    (count > 0 ∧ s.I.toNat + count - 1 > 0xFFF ∧ s.withRange count body =
      .next { s with status := .faulted (.memoryOutOfRange (BitVec.ofNat 16 (s.I.toNat + count - 1))) }) ∨
    ((count = 0 ∨ s.I.toNat + count - 1 ≤ 0xFFF) ∧ s.withRange count body = body) := by
  unfold State.withRange State.lastAddr raise
  split
  · exact .inl ⟨by omega, by omega, rfl⟩
  · exact .inr ⟨by omega, rfl⟩

/-- The key check (R217): the fault, or the body on that key's state. -/
theorem withKey_cases (s : State) (x : Reg) (body : Bool → Result) :
    ((s.getV x).toNat > 0xF ∧ s.withKey x body =
      .next { s with status := .faulted (.keyIndexOutOfRange (s.getV x)) }) ∨
    (∃ pressed, s.key[(s.getV x).toNat]? = some pressed ∧ s.withKey x body = body pressed) := by
  unfold State.withKey raise
  split
  · rename_i h
    exact .inr ⟨_, Vector.getElem?_eq_getElem h, rfl⟩
  · exact .inl ⟨by omega, rfl⟩

/-- The slot check (R218): the fault, or the body. -/
theorem withRpl_cases (s : State) (x : Reg) (body : Result) :
    (x.toNat > 7 ∧ s.withRpl x body = .next { s with status := .faulted (.rplIndexOutOfRange x) }) ∨
    (x.toNat ≤ 7 ∧ s.withRpl x body = body) := by
  unfold State.withRpl raise
  split
  · exact .inl ⟨by assumption, rfl⟩
  · exact .inr ⟨by omega, rfl⟩

/-- The digit check (R219): the fault, or the body on the digit. -/
theorem withDigit_cases (s : State) (x : Reg) (limit : Nat) (body : Nat → Result) :
    ((s.getV x).toNat > limit ∧ s.withDigit x limit body =
      .next { s with status := .faulted (.fontDigitOutOfRange (s.getV x)) }) ∨
    ((s.getV x).toNat ≤ limit ∧ s.withDigit x limit body = body (s.getV x).toNat) := by
  unfold State.withDigit raise
  split
  · exact .inl ⟨by assumption, rfl⟩
  · exact .inr ⟨by omega, rfl⟩

/-- An access inside memory, or of no bytes, passes the address check (R68). -/
theorem withRange_ok {s : State} {count : Nat} (body : Result) (h : count = 0 ∨ s.I.toNat + count ≤ 0x1000) :
    s.withRange count body = body := by
  rcases withRange_cases s count body with ⟨_, _, _⟩ | ⟨_, he⟩
  · omega
  · exact he

/-- An access that would reach beyond memory raises MemoryOutOfRange (R216). -/
theorem withRange_fault {s : State} {count : Nat} (body : Result) (h : count > 0)
    (h' : s.I.toNat + count > 0x1000) : s.withRange count body =
      .next { s with status := .faulted (.memoryOutOfRange (BitVec.ofNat 16 (s.I.toNat + count - 1))) } := by
  rcases withRange_cases s count body with ⟨_, _, he⟩ | ⟨_, _⟩
  · exact he
  · omega

/-- A key number selects that key's state (R134, R135). -/
theorem withKey_ok {s : State} {x : Reg} {pressed : Bool} (body : Bool → Result)
    (h : s.key[(s.getV x).toNat]? = some pressed) : s.withKey x body = body pressed := by
  rcases withKey_cases s x body with ⟨hx, _⟩ | ⟨q, hq, he⟩
  · rw [Vector.getElem?_eq_none (by omega)] at h; cases h
  · rw [h] at hq; cases hq; exact he

/-- A value beyond the keypad raises KeyIndexOutOfRange (R217). -/
theorem withKey_fault {s : State} {x : Reg} (body : Bool → Result) (h : (s.getV x).toNat > 0xF) :
    s.withKey x body = .next { s with status := .faulted (.keyIndexOutOfRange (s.getV x)) } := by
  rcases withKey_cases s x body with ⟨_, he⟩ | ⟨q, hq, _⟩
  · exact he
  · rw [Vector.getElem?_eq_none (by omega)] at hq; cases hq

/-- Slots up to 7 pass the slot check (R197, R198). -/
theorem withRpl_ok {s : State} {x : Reg} (body : Result) (h : x.toNat ≤ 7) : s.withRpl x body = body :=
  (withRpl_cases s x body).elim (fun h' => absurd h'.1 (by omega)) (fun h' => h'.2)

/-- A slot beyond 7 raises RplIndexOutOfRange (R218). -/
theorem withRpl_fault {s : State} {x : Reg} (body : Result) (h : x.toNat > 7) :
    s.withRpl x body = .next { s with status := .faulted (.rplIndexOutOfRange x) } :=
  (withRpl_cases s x body).elim (fun h' => h'.2) (fun h' => absurd h'.1 (by omega))

/-- A digit of the font passes the digit check (R192, R193). -/
theorem withDigit_ok {s : State} {x : Reg} {limit : Nat} (body : Nat → Result) (h : (s.getV x).toNat ≤ limit) :
    s.withDigit x limit body = body (s.getV x).toNat :=
  (withDigit_cases s x limit body).elim (fun h' => absurd h'.1 (by omega)) (fun h' => h'.2)

/-- A value beyond the font raises FontDigitOutOfRange (R219). -/
theorem withDigit_fault {s : State} {x : Reg} {limit : Nat} (body : Nat → Result) (h : (s.getV x).toNat > limit) :
    s.withDigit x limit body = .next { s with status := .faulted (.fontDigitOutOfRange (s.getV x)) } :=
  (withDigit_cases s x limit body).elim (fun h' => h'.2) (fun h' => absurd h'.1 (by omega))

/-- How many bytes FX55 stores (R195). -/
@[simp] theorem regsUpTo_length (s : State) (x : Reg) : (s.regsUpTo x).length = x.toNat + 1 := by
  simp [State.regsUpTo]

/-- Byte k that FX55 stores is Vk (R195). -/
theorem regsUpTo_getElem (s : State) (x : Reg) (k : Nat) (h : k < (s.regsUpTo x).length) :
    (s.regsUpTo x)[k] = s.getV (BitVec.ofNat 4 k) := by
  simp [State.regsUpTo]

/-- An advance never wraps where a step runs (R104). -/
theorem fetchable_advance {s : State} (h : s.fetchable) :
    (s.pc + 2#16).toNat = s.pc.toNat + 2 ∧ (s.pc + 4#16).toNat = s.pc.toNat + 4 := by
  obtain ⟨_, h⟩ := h
  constructor <;> simp only [BitVec.toNat_add, BitVec.toNat_ofNat] <;> omega

/-- The address a fetchable pc names is pc itself. -/
theorem codeAddr_toNat {pc : Word} (h : pc.toNat ≤ 0xFFF) : (codeAddr pc).toNat = pc.toNat := by
  simp only [codeAddr, BitVec.toNat_setWidth]; omega

/-- The word of two bytes as a number, the first the more significant (R61). -/
theorem wordOfBytes_toNat (hi lo : Byte) : (wordOfBytes hi lo).toNat = hi.toNat * 256 + lo.toNat := by
  have h := lo.isLt
  rw [wordOfBytes, BitVec.toNat_append, Nat.shiftLeft_eq, Nat.mul_comm, ← Nat.two_pow_add_eq_or_of_lt h]

/-- The address `I + k` inside memory is the plain sum (R68). -/
theorem dataAddr_toNat (s : State) (k : Nat) (h : s.I.toNat + k ≤ 0xFFF) :
    (s.dataAddr k).toNat = s.I.toNat + k := by
  simp only [State.dataAddr, BitVec.toNat_add, BitVec.toNat_ofNat]; omega

/-- The inputs a driver has lined up are the inputs of the step (R106). -/
@[simp] theorem input_cons (s : State) (a : StepInput) (rest : List StepInput) :
    ({ s with inputs := a :: rest } : State).input = a := rfl

/-- The subtraction law of R147 over the integers. -/
theorem absDiff_spec (m s : Byte) :
    (((absDiff m s).1.toNat : Nat) : Int) = |(m.toNat : Int) - (s.toNat : Int)| ∧
      ((absDiff m s).2 = true ↔ s.toNat ≤ m.toNat) := by
  have hm := m.isLt
  have hs := s.isLt
  unfold absDiff
  split
  · rename_i h
    refine ⟨?_, by simp [h]⟩
    rw [abs_of_nonneg (by omega)]
    simp only [BitVec.toNat_ofNat]
    omega
  · rename_i h
    refine ⟨?_, by simp; omega⟩
    rw [abs_of_neg (by omega)]
    simp only [BitVec.toNat_ofNat]
    omega

/-- ONE STEP: everything it can do when it answers a next state (R109, R220). -/
theorem step_cases {s t : State} (h : step s = .next t) :
    (s.status = .halted ∧ t = s) ∨
    (s.status = .running ∧ ¬ s.fetchable ∧
      t = State.consumeInput { s with status := .faulted (.pcOutOfRange s.pc) }) ∨
    (s.status = .running ∧ s.fetchable ∧ decode s.fetchWord = none ∧
      t = State.consumeInput { s with status := .faulted (.unknownInstruction s.fetchWord s.pc) }) ∨
    (∃ i u, s.status = .running ∧ s.fetchable ∧ decode s.fetchWord = some i ∧ exec i s = .next u ∧
      t = u.consumeInput) := by
  unfold step cycle at h
  split at h
  · rename_i hs
    exact .inl ⟨hs, by simpa using h.symm⟩
  · cases h
  · rename_i hs
    unfold runInstr at h
    split at h
    · rename_i hf
      exact .inr (.inl ⟨hs, hf, by simpa [endStep, raise] using h.symm⟩)
    · rename_i hf
      split at h
      · rename_i hd
        exact .inr (.inr (.inl ⟨hs, by simpa using hf, hd, by simpa [endStep, raise] using h.symm⟩))
      · rename_i i hd
        cases he : exec i s with
        | next u =>
          rw [he] at h
          exact .inr (.inr (.inr ⟨i, u, hs, by simpa using hf, hd, he, by simpa [endStep] using h.symm⟩))
        | fault f => rw [he] at h; cases h
        | refused r => rw [he] at h; cases h

end Sys2Proof.Machine
end

