-- ==== Sys2Proof/Laws/Environment.lean ====
section
/-! SUPPORT. What an instruction does with the environment of a step (log entry 21): it works on the record of R20 and
reads the parameters and the step's input, and passes the queue of inputs and its count on untouched. -/

namespace Sys2Proof.Machine

/-- The same record and parameters, with other lined-up inputs. -/
def State.lined (s : State) (inputs : List StepInput) (turn : Nat) : State := { s with inputs := inputs, turn := turn }

@[simp] theorem State.lined_toRecord (s : State) (a : List StepInput) (n : Nat) :
    (s.lined a n).toRecord = s.toRecord := rfl
@[simp] theorem State.lined_cfg (s : State) (a : List StepInput) (n : Nat) : (s.lined a n).cfg = s.cfg := rfl
@[simp] theorem State.lined_inputs (s : State) (a : List StepInput) (n : Nat) : (s.lined a n).inputs = a := rfl
@[simp] theorem State.lined_turn (s : State) (a : List StepInput) (n : Nat) : (s.lined a n).turn = n := rfl

/-- Two states with the same record and parameters differ in the lined-up inputs alone. -/
theorem State.eq_lined {s t : State} (hr : s.toRecord = t.toRecord) (hc : s.cfg = t.cfg) :
    t = s.lined t.inputs t.turn := by
  obtain ⟨r, c, a, n⟩ := t
  obtain ⟨r', ⟨c', a', n'⟩⟩ := s
  cases hr
  cases hc
  rfl

/-- A change of the next state, with the other outcomes as they are. -/
def onNext (f : State → State) : Result → Result
  | .next t => .next (f t)
  | .fault x => .fault x
  | .refused r => .refused r

/-- A choice between two outcomes, then a change of the next state. -/
theorem onNext_ite (f : State → State) (c : Prop) [Decidable c] (p q : Result) :
    onNext f (if c then p else q) = if c then onNext f p else onNext f q := by
  split <;> rfl

/-- A block store does not look at the lined-up inputs. -/
theorem State.storeBytes_lined (s : State) (l : List Byte) (x : Addr) (a : List StepInput) (n : Nat) :
    (s.lined a n).storeBytes x l = (s.storeBytes x l).lined a n := by
  induction l generalizing s x with
  | nil => rfl
  | cons v l ih => exact ih (s.writeByte x v) _

/-- The address check does not look at the lined-up inputs. -/
theorem withRange_lined (s : State) (a : List StepInput) (n count : Nat) (body : Result) :
    onNext (·.lined a n) (s.withRange count body) =
      (s.lined a n).withRange count (onNext (·.lined a n) body) :=
  onNext_ite _ _ _ _

/-- The key check does not look at the lined-up inputs. -/
theorem withKey_lined (s : State) (a : List StepInput) (n : Nat) (x : Reg) (body : Bool → Result) :
    onNext (·.lined a n) (s.withKey x body) =
      (s.lined a n).withKey x fun pressed => onNext (·.lined a n) (body pressed) := by
  unfold State.withKey
  by_cases h : (s.getV x).toNat < 16
  · rw [dif_pos h, dif_pos (show ((s.lined a n).getV x).toNat < 16 from h)]; rfl
  · rw [dif_neg h, dif_neg (show ¬ ((s.lined a n).getV x).toNat < 16 from h)]; rfl

/-- The slot check does not look at the lined-up inputs. -/
theorem withRpl_lined (s : State) (a : List StepInput) (n : Nat) (x : Reg) (body : Result) :
    onNext (·.lined a n) (s.withRpl x body) = (s.lined a n).withRpl x (onNext (·.lined a n) body) :=
  onNext_ite _ _ _ _

/-- The digit check does not look at the lined-up inputs. -/
theorem withDigit_lined (s : State) (a : List StepInput) (n : Nat) (x : Reg) (limit : Nat) (body : Nat → Result) :
    onNext (·.lined a n) (s.withDigit x limit body) =
      (s.lined a n).withDigit x limit fun d => onNext (·.lined a n) (body d) :=
  onNext_ite _ _ _ _

/-- ONE INSTRUCTION under other lined-up inputs whose next one is the same: the same outcome, the lined-up inputs
passed on untouched. -/
theorem exec_lined (i : Instr) (s : State) (a : List StepInput) (n : Nat) (h : (s.lined a n).input = s.input) :
    exec i (s.lined a n) = onNext (·.lined a n) (exec i s) := by
  cases i
  case ldVxK x =>
    simp only [exec, execLdVxK, h, onNext]
    cases s.input.key <;> rfl
  case rnd x nn => simp only [exec, execRnd, h, onNext]; rfl
  case ret =>
    simp only [exec, execRet, show (s.lined a n).stack = s.stack from rfl]
    cases s.stack.getLast? <;> rfl
  case call nnn => simp only [exec, execCall]; rw [onNext_ite]; rfl
  case skp x => simp only [exec, execSkp]; rw [withKey_lined]; rfl
  case sknp x => simp only [exec, execSknp]; rw [withKey_lined]; rfl
  case drw x y k => simp only [exec, execDrw]; rw [withRange_lined]; rfl
  case ldF x => simp only [exec, execLdF]; rw [withDigit_lined]; rfl
  case ldHf x => simp only [exec, execLdHf]; rw [withDigit_lined]; rfl
  case ldB x =>
    simp only [exec, execLdB]
    rw [withRange_lined, show (s.lined a n).storeBytes (s.lined a n).I _ = _ from State.storeBytes_lined ..]; rfl
  case ldMemVx x =>
    simp only [exec, execLdMemVx]
    rw [withRange_lined, show (s.lined a n).storeBytes (s.lined a n).I _ = _ from State.storeBytes_lined ..]; rfl
  case ldVxMem x => simp only [exec, execLdVxMem]; rw [withRange_lined]; rfl
  case ldRVx x => simp only [exec, execLdRVx]; rw [withRpl_lined]; rfl
  case ldVxR x => simp only [exec, execLdVxR]; rw [withRpl_lined]; rfl
  all_goals rfl

end Sys2Proof.Machine
end

