-- ==== Sys2Proof/Laws/PerInstr.lean ====
section
/-! SUPPORT. The statements made per instruction, one lemma per constructor of `Instr` in each family. -/

namespace Sys2Proof.Laws.RoundTrip

/-- The word of an instruction decodes to it, with every operand at every value (R84, R85). -/
def Statement (i : Instr) : Prop := decode (encode i) = some i

theorem scd (n : Nibble) : Statement (.scd n) := by
  simp [Statement, encode, decode, decodeMajor0, fieldMajor_scroll, fieldX_scroll, fieldY_scroll, fieldN_scroll]

theorem cls : Statement .cls := (by decide : decode (encode .cls) = some .cls)

theorem ret : Statement .ret := (by decide : decode (encode .ret) = some .ret)

theorem scr : Statement .scr := (by decide : decode (encode .scr) = some .scr)

theorem scl : Statement .scl := (by decide : decode (encode .scl) = some .scl)

theorem exit : Statement .exit := (by decide : decode (encode .exit) = some .exit)

theorem low : Statement .low := (by decide : decode (encode .low) = some .low)

theorem high : Statement .high := (by decide : decode (encode .high) = some .high)

theorem jp (nnn : Addr) : Statement (.jp nnn) := by
  simp [Statement, encode, decode, fieldMajor_eq, fieldNNN_eq]

theorem call (nnn : Addr) : Statement (.call nnn) := by
  simp [Statement, encode, decode, fieldMajor_eq, fieldNNN_eq]

theorem seImm (x : Reg) (nn : Byte) : Statement (.seImm x nn) := by
  simp [Statement, encode, decode, fieldMajor_xnn, fieldX_xnn, fieldNN_xnn]

theorem sneImm (x : Reg) (nn : Byte) : Statement (.sneImm x nn) := by
  simp [Statement, encode, decode, fieldMajor_xnn, fieldX_xnn, fieldNN_xnn]

theorem seReg (x y : Reg) : Statement (.seReg x y) := by
  simp [Statement, encode, decode, fieldMajor_xyn, fieldX_xyn, fieldY_xyn, fieldN_xyn]

theorem ldImm (x : Reg) (nn : Byte) : Statement (.ldImm x nn) := by
  simp [Statement, encode, decode, fieldMajor_xnn, fieldX_xnn, fieldNN_xnn]

theorem addImm (x : Reg) (nn : Byte) : Statement (.addImm x nn) := by
  simp [Statement, encode, decode, fieldMajor_xnn, fieldX_xnn, fieldNN_xnn]

theorem ldReg (x y : Reg) : Statement (.ldReg x y) := by
  simp [Statement, encode, decode, decodeMajor8, fieldMajor_xyn, fieldX_xyn, fieldY_xyn, fieldN_xyn]

theorem orReg (x y : Reg) : Statement (.orReg x y) := by
  simp [Statement, encode, decode, decodeMajor8, fieldMajor_xyn, fieldX_xyn, fieldY_xyn, fieldN_xyn]

theorem andReg (x y : Reg) : Statement (.andReg x y) := by
  simp [Statement, encode, decode, decodeMajor8, fieldMajor_xyn, fieldX_xyn, fieldY_xyn, fieldN_xyn]

theorem xorReg (x y : Reg) : Statement (.xorReg x y) := by
  simp [Statement, encode, decode, decodeMajor8, fieldMajor_xyn, fieldX_xyn, fieldY_xyn, fieldN_xyn]

theorem addReg (x y : Reg) : Statement (.addReg x y) := by
  simp [Statement, encode, decode, decodeMajor8, fieldMajor_xyn, fieldX_xyn, fieldY_xyn, fieldN_xyn]

theorem subReg (x y : Reg) : Statement (.subReg x y) := by
  simp [Statement, encode, decode, decodeMajor8, fieldMajor_xyn, fieldX_xyn, fieldY_xyn, fieldN_xyn]

theorem shr (x y : Reg) : Statement (.shr x y) := by
  simp [Statement, encode, decode, decodeMajor8, fieldMajor_xyn, fieldX_xyn, fieldY_xyn, fieldN_xyn]

theorem subn (x y : Reg) : Statement (.subn x y) := by
  simp [Statement, encode, decode, decodeMajor8, fieldMajor_xyn, fieldX_xyn, fieldY_xyn, fieldN_xyn]

theorem shl (x y : Reg) : Statement (.shl x y) := by
  simp [Statement, encode, decode, decodeMajor8, fieldMajor_xyn, fieldX_xyn, fieldY_xyn, fieldN_xyn]

theorem sneReg (x y : Reg) : Statement (.sneReg x y) := by
  simp [Statement, encode, decode, fieldMajor_xyn, fieldX_xyn, fieldY_xyn, fieldN_xyn]

theorem ldI (nnn : Addr) : Statement (.ldI nnn) := by
  simp [Statement, encode, decode, fieldMajor_eq, fieldNNN_eq]

theorem jpV0 (nnn : Addr) : Statement (.jpV0 nnn) := by
  simp [Statement, encode, decode, fieldMajor_eq, fieldNNN_eq]

theorem rnd (x : Reg) (nn : Byte) : Statement (.rnd x nn) := by
  simp [Statement, encode, decode, fieldMajor_xnn, fieldX_xnn, fieldNN_xnn]

theorem drw (x y : Reg) (n : Nibble) : Statement (.drw x y n) := by
  simp [Statement, encode, decode, fieldMajor_xyn, fieldX_xyn, fieldY_xyn, fieldN_xyn]

theorem skp (x : Reg) : Statement (.skp x) := by
  simp [Statement, encode, decode, decodeMajorE, fieldMajor_xnn, fieldX_xnn, fieldNN_xnn]

theorem sknp (x : Reg) : Statement (.sknp x) := by
  simp [Statement, encode, decode, decodeMajorE, fieldMajor_xnn, fieldX_xnn, fieldNN_xnn]

theorem ldVxDt (x : Reg) : Statement (.ldVxDt x) := by
  simp [Statement, encode, decode, decodeMajorF, fieldMajor_xnn, fieldX_xnn, fieldNN_xnn]

theorem ldVxK (x : Reg) : Statement (.ldVxK x) := by
  simp [Statement, encode, decode, decodeMajorF, fieldMajor_xnn, fieldX_xnn, fieldNN_xnn]

theorem ldDtVx (x : Reg) : Statement (.ldDtVx x) := by
  simp [Statement, encode, decode, decodeMajorF, fieldMajor_xnn, fieldX_xnn, fieldNN_xnn]

theorem ldStVx (x : Reg) : Statement (.ldStVx x) := by
  simp [Statement, encode, decode, decodeMajorF, fieldMajor_xnn, fieldX_xnn, fieldNN_xnn]

theorem addIVx (x : Reg) : Statement (.addIVx x) := by
  simp [Statement, encode, decode, decodeMajorF, fieldMajor_xnn, fieldX_xnn, fieldNN_xnn]

theorem ldF (x : Reg) : Statement (.ldF x) := by
  simp [Statement, encode, decode, decodeMajorF, fieldMajor_xnn, fieldX_xnn, fieldNN_xnn]

theorem ldHf (x : Reg) : Statement (.ldHf x) := by
  simp [Statement, encode, decode, decodeMajorF, fieldMajor_xnn, fieldX_xnn, fieldNN_xnn]

theorem ldB (x : Reg) : Statement (.ldB x) := by
  simp [Statement, encode, decode, decodeMajorF, fieldMajor_xnn, fieldX_xnn, fieldNN_xnn]

theorem ldMemVx (x : Reg) : Statement (.ldMemVx x) := by
  simp [Statement, encode, decode, decodeMajorF, fieldMajor_xnn, fieldX_xnn, fieldNN_xnn]

theorem ldVxMem (x : Reg) : Statement (.ldVxMem x) := by
  simp [Statement, encode, decode, decodeMajorF, fieldMajor_xnn, fieldX_xnn, fieldNN_xnn]

theorem ldRVx (x : Reg) : Statement (.ldRVx x) := by
  simp [Statement, encode, decode, decodeMajorF, fieldMajor_xnn, fieldX_xnn, fieldNN_xnn]

theorem ldVxR (x : Reg) : Statement (.ldVxR x) := by
  simp [Statement, encode, decode, decodeMajorF, fieldMajor_xnn, fieldX_xnn, fieldNN_xnn]

end Sys2Proof.Laws.RoundTrip

namespace Sys2Proof.Laws.OpcodeRowOf

/-- The word of an instruction matches the row of the opcode map that has its mnemonic (R85). -/
def Statement (i : Instr) : Prop := ∃ r ∈ opcodeMap, r.mnemonic = i.mnemonic ∧ r.covers (encode i) = true

theorem scd (n : Nibble) : Statement (.scd n) :=
  ⟨⟨0xFFF0, 0x00C0, "SCD_N"⟩, by decide, rfl, by
    simp only [OpcodeRow.covers, encode]; decide +revert⟩

theorem cls : Statement .cls :=
  ⟨⟨0xFFFF, 0x00E0, "CLS"⟩, by decide, rfl, by decide⟩

theorem ret : Statement .ret :=
  ⟨⟨0xFFFF, 0x00EE, "RET"⟩, by decide, rfl, by decide⟩

theorem scr : Statement .scr :=
  ⟨⟨0xFFFF, 0x00FB, "SCR"⟩, by decide, rfl, by decide⟩

theorem scl : Statement .scl :=
  ⟨⟨0xFFFF, 0x00FC, "SCL"⟩, by decide, rfl, by decide⟩

theorem exit : Statement .exit :=
  ⟨⟨0xFFFF, 0x00FD, "EXIT"⟩, by decide, rfl, by decide⟩

theorem low : Statement .low :=
  ⟨⟨0xFFFF, 0x00FE, "LOW"⟩, by decide, rfl, by decide⟩

theorem high : Statement .high :=
  ⟨⟨0xFFFF, 0x00FF, "HIGH"⟩, by decide, rfl, by decide⟩

theorem jp (nnn : Addr) : Statement (.jp nnn) :=
  ⟨⟨0xF000, 0x1000, "JP_NNN"⟩, by decide, rfl, by
    simp only [OpcodeRow.covers, encode, mask_addr]; decide⟩

theorem call (nnn : Addr) : Statement (.call nnn) :=
  ⟨⟨0xF000, 0x2000, "CALL_NNN"⟩, by decide, rfl, by
    simp only [OpcodeRow.covers, encode, mask_addr]; decide⟩

theorem seImm (x : Reg) (nn : Byte) : Statement (.seImm x nn) :=
  ⟨⟨0xF000, 0x3000, "SE_VX__NN"⟩, by decide, rfl, by
    simp only [OpcodeRow.covers, encode, mask_xnn]; decide⟩

theorem sneImm (x : Reg) (nn : Byte) : Statement (.sneImm x nn) :=
  ⟨⟨0xF000, 0x4000, "SNE_VX__NN"⟩, by decide, rfl, by
    simp only [OpcodeRow.covers, encode, mask_xnn]; decide⟩

theorem seReg (x y : Reg) : Statement (.seReg x y) :=
  ⟨⟨0xF00F, 0x5000, "SE_VX__VY"⟩, by decide, rfl, by
    simp only [OpcodeRow.covers, encode, mask_xyk]; decide⟩

theorem ldImm (x : Reg) (nn : Byte) : Statement (.ldImm x nn) :=
  ⟨⟨0xF000, 0x6000, "LD_VX__NN"⟩, by decide, rfl, by
    simp only [OpcodeRow.covers, encode, mask_xnn]; decide⟩

theorem addImm (x : Reg) (nn : Byte) : Statement (.addImm x nn) :=
  ⟨⟨0xF000, 0x7000, "ADD_VX__NN"⟩, by decide, rfl, by
    simp only [OpcodeRow.covers, encode, mask_xnn]; decide⟩

theorem ldReg (x y : Reg) : Statement (.ldReg x y) :=
  ⟨⟨0xF00F, 0x8000, "LD_VX__VY"⟩, by decide, rfl, by
    simp only [OpcodeRow.covers, encode, mask_xyk]; decide⟩

theorem orReg (x y : Reg) : Statement (.orReg x y) :=
  ⟨⟨0xF00F, 0x8001, "OR_VX__VY"⟩, by decide, rfl, by
    simp only [OpcodeRow.covers, encode, mask_xyk]; decide⟩

theorem andReg (x y : Reg) : Statement (.andReg x y) :=
  ⟨⟨0xF00F, 0x8002, "AND_VX__VY"⟩, by decide, rfl, by
    simp only [OpcodeRow.covers, encode, mask_xyk]; decide⟩

theorem xorReg (x y : Reg) : Statement (.xorReg x y) :=
  ⟨⟨0xF00F, 0x8003, "XOR_VX__VY"⟩, by decide, rfl, by
    simp only [OpcodeRow.covers, encode, mask_xyk]; decide⟩

theorem addReg (x y : Reg) : Statement (.addReg x y) :=
  ⟨⟨0xF00F, 0x8004, "ADD_VX__VY"⟩, by decide, rfl, by
    simp only [OpcodeRow.covers, encode, mask_xyk]; decide⟩

theorem subReg (x y : Reg) : Statement (.subReg x y) :=
  ⟨⟨0xF00F, 0x8005, "SUB_VX__VY"⟩, by decide, rfl, by
    simp only [OpcodeRow.covers, encode, mask_xyk]; decide⟩

theorem shr (x y : Reg) : Statement (.shr x y) :=
  ⟨⟨0xF00F, 0x8006, "SHR_VX____VY"⟩, by decide, rfl, by
    simp only [OpcodeRow.covers, encode, mask_xyk]; decide⟩

theorem subn (x y : Reg) : Statement (.subn x y) :=
  ⟨⟨0xF00F, 0x8007, "SUBN_VX__VY"⟩, by decide, rfl, by
    simp only [OpcodeRow.covers, encode, mask_xyk]; decide⟩

theorem shl (x y : Reg) : Statement (.shl x y) :=
  ⟨⟨0xF00F, 0x800E, "SHL_VX____VY"⟩, by decide, rfl, by
    simp only [OpcodeRow.covers, encode, mask_xyk]; decide⟩

theorem sneReg (x y : Reg) : Statement (.sneReg x y) :=
  ⟨⟨0xF00F, 0x9000, "SNE_VX__VY"⟩, by decide, rfl, by
    simp only [OpcodeRow.covers, encode, mask_xyk]; decide⟩

theorem ldI (nnn : Addr) : Statement (.ldI nnn) :=
  ⟨⟨0xF000, 0xA000, "LD_I__NNN"⟩, by decide, rfl, by
    simp only [OpcodeRow.covers, encode, mask_addr]; decide⟩

theorem jpV0 (nnn : Addr) : Statement (.jpV0 nnn) :=
  ⟨⟨0xF000, 0xB000, "JP_V0__NNN"⟩, by decide, rfl, by
    simp only [OpcodeRow.covers, encode, mask_addr]; decide⟩

theorem rnd (x : Reg) (nn : Byte) : Statement (.rnd x nn) :=
  ⟨⟨0xF000, 0xC000, "RND_VX__NN"⟩, by decide, rfl, by
    simp only [OpcodeRow.covers, encode, mask_xnn]; decide⟩

theorem drw (x y : Reg) (n : Nibble) : Statement (.drw x y n) :=
  ⟨⟨0xF000, 0xD000, "DRW_VX__VY__N"⟩, by decide, rfl, by
    simp only [OpcodeRow.covers, encode, mask_xyn]; decide⟩

theorem skp (x : Reg) : Statement (.skp x) :=
  ⟨⟨0xF0FF, 0xE09E, "SKP_VX"⟩, by decide, rfl, by
    simp only [OpcodeRow.covers, encode, mask_xkk]; decide⟩

theorem sknp (x : Reg) : Statement (.sknp x) :=
  ⟨⟨0xF0FF, 0xE0A1, "SKNP_VX"⟩, by decide, rfl, by
    simp only [OpcodeRow.covers, encode, mask_xkk]; decide⟩

theorem ldVxDt (x : Reg) : Statement (.ldVxDt x) :=
  ⟨⟨0xF0FF, 0xF007, "LD_VX__DT"⟩, by decide, rfl, by
    simp only [OpcodeRow.covers, encode, mask_xkk]; decide⟩

theorem ldVxK (x : Reg) : Statement (.ldVxK x) :=
  ⟨⟨0xF0FF, 0xF00A, "LD_VX__K"⟩, by decide, rfl, by
    simp only [OpcodeRow.covers, encode, mask_xkk]; decide⟩

theorem ldDtVx (x : Reg) : Statement (.ldDtVx x) :=
  ⟨⟨0xF0FF, 0xF015, "LD_DT__VX"⟩, by decide, rfl, by
    simp only [OpcodeRow.covers, encode, mask_xkk]; decide⟩

theorem ldStVx (x : Reg) : Statement (.ldStVx x) :=
  ⟨⟨0xF0FF, 0xF018, "LD_ST__VX"⟩, by decide, rfl, by
    simp only [OpcodeRow.covers, encode, mask_xkk]; decide⟩

theorem addIVx (x : Reg) : Statement (.addIVx x) :=
  ⟨⟨0xF0FF, 0xF01E, "ADD_I__VX"⟩, by decide, rfl, by
    simp only [OpcodeRow.covers, encode, mask_xkk]; decide⟩

theorem ldF (x : Reg) : Statement (.ldF x) :=
  ⟨⟨0xF0FF, 0xF029, "LD_F__VX"⟩, by decide, rfl, by
    simp only [OpcodeRow.covers, encode, mask_xkk]; decide⟩

theorem ldHf (x : Reg) : Statement (.ldHf x) :=
  ⟨⟨0xF0FF, 0xF030, "LD_HF__VX"⟩, by decide, rfl, by
    simp only [OpcodeRow.covers, encode, mask_xkk]; decide⟩

theorem ldB (x : Reg) : Statement (.ldB x) :=
  ⟨⟨0xF0FF, 0xF033, "LD_B__VX"⟩, by decide, rfl, by
    simp only [OpcodeRow.covers, encode, mask_xkk]; decide⟩

theorem ldMemVx (x : Reg) : Statement (.ldMemVx x) :=
  ⟨⟨0xF0FF, 0xF055, "LD__I___VX"⟩, by decide, rfl, by
    simp only [OpcodeRow.covers, encode, mask_xkk]; decide⟩

theorem ldVxMem (x : Reg) : Statement (.ldVxMem x) :=
  ⟨⟨0xF0FF, 0xF065, "LD_VX___I"⟩, by decide, rfl, by
    simp only [OpcodeRow.covers, encode, mask_xkk]; decide⟩

theorem ldRVx (x : Reg) : Statement (.ldRVx x) :=
  ⟨⟨0xF0FF, 0xF075, "LD_R__VX"⟩, by decide, rfl, by
    simp only [OpcodeRow.covers, encode, mask_xkk]; decide⟩

theorem ldVxR (x : Reg) : Statement (.ldVxR x) :=
  ⟨⟨0xF0FF, 0xF085, "LD_VX__R"⟩, by decide, rfl, by
    simp only [OpcodeRow.covers, encode, mask_xkk]; decide⟩

end Sys2Proof.Laws.OpcodeRowOf
end

