-- ==== Sys2Proof/Tests/Slice0.lean ====
section
/-! SUPPORT. The model's own tests. Words are written out bit by bit from the patterns of spec/30_encoding.md rule R85;
results of steps come from the tables of spec/95_test_vectors.md, whose row each comment names. The theorems
`test_witness_…` show, for each obligation with hypotheses, states and operands that meet them. -/

open Sys2Proof Sys2Proof.Machine Sys2Proof.Statements

namespace Sys2Proof.Tests

/-! ### Well-formedness -/

theorem test_wf_refuses_rpl_store_of_V8 : (Instr.ldRVx 8#4).wf = false ∧ (Instr.ldRVx 7#4).wf = true := by decide
theorem test_wf_refuses_rpl_load_of_V8 : (Instr.ldVxR 8#4).wf = false ∧ (Instr.ldVxR 7#4).wf = true := by decide
/-- W-10: the image limit. -/
theorem test_wf_refuses_long_image :
    imageWf (List.replicate 3585 0#8) = false ∧ imageWf (List.replicate 3584 0#8) = true := by
  simp only [imageWf, List.length_replicate, maxImage]; decide

/-! ### Decoding, one word per constructor -/

theorem test_decode_system :
    decode 0b0000_0000_1100_0010#16 = some (.scd 2) ∧ decode 0b0000_0000_1110_0000#16 = some .cls ∧
    decode 0b0000_0000_1110_1110#16 = some .ret ∧ decode 0b0000_0000_1111_1011#16 = some .scr ∧
    decode 0b0000_0000_1111_1100#16 = some .scl ∧ decode 0b0000_0000_1111_1101#16 = some .exit ∧
    decode 0b0000_0000_1111_1110#16 = some .low ∧ decode 0b0000_0000_1111_1111#16 = some .high := by decide

theorem test_decode_control :
    decode 0b0001_0010_0011_0100#16 = some (.jp 0x234) ∧ decode 0b0010_0010_0011_0100#16 = some (.call 0x234) ∧
    decode 0b1011_0010_0011_0100#16 = some (.jpV0 0x234) := by decide

theorem test_decode_skips :
    decode 0b0011_0101_1010_1001#16 = some (.seImm 5 0xA9) ∧ decode 0b0100_0101_1010_1001#16 = some (.sneImm 5 0xA9) ∧
    decode 0b0101_0101_1010_0000#16 = some (.seReg 5 0xA) ∧ decode 0b1001_0101_1010_0000#16 = some (.sneReg 5 0xA) ∧
    decode 0b1110_0101_1001_1110#16 = some (.skp 5) ∧ decode 0b1110_0101_1010_0001#16 = some (.sknp 5) := by decide

theorem test_decode_alu :
    decode 0b0110_0101_1010_1001#16 = some (.ldImm 5 0xA9) ∧ decode 0b0111_0101_1010_1001#16 = some (.addImm 5 0xA9) ∧
    decode 0b1000_0101_1010_0000#16 = some (.ldReg 5 0xA) ∧ decode 0b1000_0101_1010_0001#16 = some (.orReg 5 0xA) ∧
    decode 0b1000_0101_1010_0010#16 = some (.andReg 5 0xA) ∧ decode 0b1000_0101_1010_0011#16 = some (.xorReg 5 0xA) ∧
    decode 0b1000_0101_1010_0100#16 = some (.addReg 5 0xA) ∧ decode 0b1000_0101_1010_0101#16 = some (.subReg 5 0xA) ∧
    decode 0b1000_0101_1010_0110#16 = some (.shr 5 0xA) ∧ decode 0b1000_0101_1010_0111#16 = some (.subn 5 0xA) ∧
    decode 0b1000_0101_1010_1110#16 = some (.shl 5 0xA) ∧ decode 0b1100_0101_1010_1001#16 = some (.rnd 5 0xA9) := by decide

theorem test_decode_draw_and_index :
    decode 0b1101_0101_1010_0011#16 = some (.drw 5 0xA 3) ∧ decode 0b1010_0010_0011_0100#16 = some (.ldI 0x234) ∧
    decode 0b1111_0101_0001_1110#16 = some (.addIVx 5) ∧ decode 0b1111_0101_0010_1001#16 = some (.ldF 5) ∧
    decode 0b1111_0101_0011_0000#16 = some (.ldHf 5) := by decide

theorem test_decode_timer_and_key :
    decode 0b1111_0101_0000_0111#16 = some (.ldVxDt 5) ∧ decode 0b1111_0101_0000_1010#16 = some (.ldVxK 5) ∧
    decode 0b1111_0101_0001_0101#16 = some (.ldDtVx 5) ∧ decode 0b1111_0101_0001_1000#16 = some (.ldStVx 5) := by decide

theorem test_decode_memory :
    decode 0b1111_0101_0011_0011#16 = some (.ldB 5) ∧ decode 0b1111_0101_0101_0101#16 = some (.ldMemVx 5) ∧
    decode 0b1111_0101_0110_0101#16 = some (.ldVxMem 5) ∧ decode 0b1111_0101_0111_0101#16 = some (.ldRVx 5) ∧
    decode 0b1111_0101_1000_0101#16 = some (.ldVxR 5) := by decide

/-- S-7, X-2 to X-8, and the out-of-scope words of R5 (00DN is X-8; 5XY2; 00BN is X-7). -/
theorem test_decode_rejects :
    decode 0x5111#16 = none ∧ decode 0x0000#16 = none ∧ decode 0x0123#16 = none ∧ decode 0x8008#16 = none ∧
    decode 0xE000#16 = none ∧ decode 0xF000#16 = none ∧ decode 0x00BF#16 = none ∧ decode 0x00D1#16 = none ∧
    decode 0x5122#16 = none := by decide

/-- R61, R80: the first byte is the more significant one; one byte alone is no instruction. -/
theorem test_decodeBytes :
    decodeBytes [0x12#8, 0x34#8, 0x56#8] = .instr (.jp 0x234) [0x56#8] ∧ decodeBytes [0x12#8] = .truncated ∧
    decodeTableWord 16 0x1234 = some (.jp 0x234) ∧ decodeTableWord 16 0 = none := by decide

/-! ### Helpers -/

/-- The machine after one step, with the given inputs, of the word `w` placed at the pc of `s`. -/
def ran (s : State) (w : Nat) (key : Option Nibble := none) (rand : Byte := 0#8) : State :=
  (portStep ⟨key, rand⟩ (s.withFetchWord 16 w)).1

/-- `s` with registers set. -/
def regs (l : List (Reg × Byte)) (s : State := State.reset) : State := l.foldl (fun t p => t.setV p.1 p.2) s

/-- `s` with screen positions set to 1. -/
def lit (l : List (Nat × Nat)) (s : State := State.reset) : State :=
  { s with fb := l.foldl (fun f p => Fb.flip f (s.mode.cellAt p.1 p.2)) s.fb }

/-- Reset in Extended mode. -/
def ext : State := { State.reset with mode := .extended }

/-- Reset with I set. -/
def atI (i : Addr) (s : State := State.reset) : State := { s with I := i }

/-- Reset with `n` return addresses on the stack. -/
def calls (n : Nat) : State := { State.reset with stack := List.replicate n 0x202#16 }

/-- Reset with STACK_CAPACITY 64 and 48 return addresses on the stack. -/
def calls64 : State := { calls 48 with cfg := { Config.default with stackCapacity := .cap64 } }

/-! ### Steps -/

/-- J-1, J-3. -/
theorem test_jp : (ran State.reset 0x1208).pc = 0x208#16 ∧ (ran State.reset 0x1FFF).pc = 0xFFF#16 := by decide
/-- J-3: the step after it. -/
theorem test_jp_out_of_range :
    (portStep ⟨none, 0#8⟩ (ran State.reset 0x1FFF)).2 = .fault (.pcOutOfRange 0xFFF#16) := by decide
/-- J-5, J-6. -/
theorem test_call :
    (ran State.reset 0x2300).pc = 0x300#16 ∧ (ran State.reset 0x2300).stack = [0x202#16] ∧
      (ran (calls 47) 0x2300).sp = 48 := by decide
/-- J-7, J-8. -/
theorem test_call_full_stack :
    (ran (calls 48) 0x2300).status = .faulted (.stackOverflow 0x200#16) ∧ (ran (calls 48) 0x2300).sp = 48 ∧
      (ran calls64 0x2300).sp = 49 := by decide
/-- J-10. -/
theorem test_ret :
    (ran { State.reset with stack := [0x202#16], pc := 0x300#16 } 0x00EE).pc = 0x202#16 ∧
      (ran { State.reset with stack := [0x202#16], pc := 0x300#16 } 0x00EE).stack = [] := by decide
/-- J-11. -/
theorem test_ret_empty_stack : (ran State.reset 0x00EE).status = .faulted (.stackUnderflow 0x200#16) := by decide
/-- J-14. -/
theorem test_jpV0 : (ran (regs [(0, 0xFF)]) 0xBFFF).pc = 0x10FE#16 := by decide
/-- S-1, S-2. -/
theorem test_seImm : (ran (regs [(3, 7)]) 0x3307).pc = 0x204#16 ∧ (ran (regs [(3, 8)]) 0x3307).pc = 0x202#16 := by decide
/-- S-3, S-4. -/
theorem test_sneImm : (ran (regs [(3, 8)]) 0x4307).pc = 0x204#16 ∧ (ran (regs [(3, 7)]) 0x4307).pc = 0x202#16 := by decide
/-- S-5, S-6. -/
theorem test_seReg :
    (ran (regs [(1, 0x40), (2, 0x40)]) 0x5120).pc = 0x204#16 ∧
      (ran (regs [(1, 0x40), (2, 0x41)]) 0x5120).pc = 0x202#16 := by decide
/-- S-8, S-9. -/
theorem test_sneReg :
    (ran (regs [(1, 1), (2, 2)]) 0x9120).pc = 0x204#16 ∧ (ran State.reset 0x9110).pc = 0x202#16 := by decide
/-- S-10, S-11. -/
theorem test_skp :
    (ran (portSetKey 5 true (regs [(0, 5)])) 0xE09E).pc = 0x204#16 ∧ (ran (regs [(0, 5)]) 0xE09E).pc = 0x202#16 := by decide
/-- S-12, S-13. -/
theorem test_sknp :
    (ran (regs [(0, 5)]) 0xE0A1).pc = 0x204#16 ∧ (ran (portSetKey 5 true (regs [(0, 5)])) 0xE0A1).pc = 0x202#16 := by decide
/-- S-14. -/
theorem test_skp_no_such_key : (ran (regs [(0, 0x10)]) 0xE09E).status = .faulted (.keyIndexOutOfRange 0x10) := by decide
/-- A-1. -/
theorem test_ldImm : (ran State.reset 0x6005).getV 0 = 5 ∧ (ran State.reset 0x6005).pc = 0x202#16 := by decide
/-- A-4. -/
theorem test_addImm :
    (ran (regs [(2, 0xFF), (0xF, 0x55)]) 0x7201).getV 2 = 0 ∧
      (ran (regs [(2, 0xFF), (0xF, 0x55)]) 0x7201).getV 0xF = 0x55 := by decide
/-- A-5. -/
theorem test_ldReg : (ran (regs [(1, 0x33)]) 0x8010).getV 0 = 0x33 := by decide
/-- A-6. -/
theorem test_orReg :
    (ran (regs [(0, 0x0F), (1, 0xF0), (0xF, 1)]) 0x8011).getV 0 = 0xFF ∧
      (ran (regs [(0, 0x0F), (1, 0xF0), (0xF, 1)]) 0x8011).getV 0xF = 1 := by decide
/-- A-7. -/
theorem test_andReg : (ran (regs [(0, 0x3C), (1, 0x0F)]) 0x8012).getV 0 = 0x0C := by decide
/-- A-8. -/
theorem test_xorReg : (ran (regs [(0, 0x3C), (1, 0x0F)]) 0x8013).getV 0 = 0x33 := by decide
/-- A-11, A-13. -/
theorem test_addReg :
    (ran (regs [(0, 0xFF), (1, 1)]) 0x8014).getV 0 = 0 ∧ (ran (regs [(0, 0xFF), (1, 1)]) 0x8014).getV 0xF = 1 ∧
      (ran (regs [(0, 0xFF), (0xF, 1)]) 0x8014).getV 0xF = 0 := by decide
/-- A-14, A-15. -/
theorem test_addReg_on_VF :
    (ran (regs [(0xF, 0xFF), (1, 2)]) 0x8F14).getV 0xF = 1 ∧
      (ran (regs [(0, 0x10), (0xF, 5)]) 0x80F4).getV 0 = 0x15 := by decide
/-- A-16, A-18. -/
theorem test_subReg :
    (ran (regs [(0, 3), (1, 5)]) 0x8015).getV 0 = 2 ∧ (ran (regs [(0, 3), (1, 5)]) 0x8015).getV 0xF = 0 ∧
      (ran (regs [(0, 7), (1, 7)]) 0x8015).getV 0xF = 1 := by decide
/-- A-20. -/
theorem test_subReg_on_VF : (ran (regs [(0xF, 3), (1, 5)]) 0x8F15).getV 0xF = 0 := by decide
/-- A-21, A-22. -/
theorem test_subn :
    (ran (regs [(0, 3), (1, 5)]) 0x8017).getV 0xF = 1 ∧ (ran (regs [(0, 5), (1, 3)]) 0x8017).getV 0 = 2 ∧
      (ran (regs [(0, 5), (1, 3)]) 0x8017).getV 0xF = 0 := by decide
/-- A-25, A-26. -/
theorem test_shr :
    (ran (regs [(0, 4), (1, 0xFF)]) 0x8016).getV 0 = 2 ∧ (ran (regs [(0, 4), (1, 0xFF)]) 0x8016).getV 1 = 0xFF ∧
      (ran (regs [(0xF, 3)]) 0x8F06).getV 0xF = 1 := by decide
/-- A-27, A-29. -/
theorem test_shl :
    (ran (regs [(0, 0x81)]) 0x800E).getV 0 = 2 ∧ (ran (regs [(0, 0x81)]) 0x800E).getV 0xF = 1 ∧
      (ran (regs [(0xF, 0x80)]) 0x8F0E).getV 0xF = 1 := by decide
/-- A-30. -/
theorem test_rnd : (ran State.reset 0xC30F none 0xA7).getV 3 = 7 := by decide
/-- T-1. -/
theorem test_ldVxDt : (ran { State.reset with DT := 0x3C } 0xF307).getV 3 = 0x3C := by decide
/-- T-3, and T-4: the keypad array does not end the wait. -/
theorem test_ldVxK :
    (ran { State.reset with pc := 0x300 } 0xF50A (some 0xB)).getV 5 = 0x0B ∧
      (ran { State.reset with pc := 0x300 } 0xF50A (some 0xB)).pc = 0x302#16 ∧
      (ran (portSetKey 3 true { State.reset with pc := 0x300 }) 0xF50A).pc = 0x300#16 := by decide
/-- T-5. -/
theorem test_ldDtVx : (ran (regs [(1, 0x3C)]) 0xF115).DT = 0x3C := by decide
/-- T-6. -/
theorem test_ldStVx : (ran (regs [(2, 0x0A)]) 0xF218).ST = 0x0A := by decide
/-- M-1. -/
theorem test_ldI : (ran State.reset 0xA2F0).I = 0x2F0#12 := by decide
/-- M-3, M-5. -/
theorem test_addIVx :
    (ran (atI 0xFFF (regs [(0, 1)])) 0xF01E).I = 0#12 ∧ (ran (atI 0xFFF (regs [(0, 1)])) 0xF01E).getV 0xF = 1 ∧
      (ran (atI 0x100 (regs [(0xF, 0x10)])) 0xFF1E).I = 0x110#12 := by decide
/-- M-7, M-8. -/
theorem test_ldF :
    (ran (regs [(0, 0x0F)]) 0xF029).I = 0x04B#12 ∧
      (ran (regs [(0, 0x10)]) 0xF029).status = .faulted (.fontDigitOutOfRange 0x10) := by decide
/-- M-10, M-11. -/
theorem test_ldHf :
    (ran (regs [(0, 9)]) 0xF030).I = 0x0AA#12 ∧
      (ran (regs [(0, 0x0A)]) 0xF030).status = .faulted (.fontDigitOutOfRange 0x0A) := by decide
/-- M-12. -/
theorem test_ldB :
    (ran (atI 0x300 (regs [(7, 0x9C)])) 0xF733).readByte 0x300 = 1 ∧
      (ran (atI 0x300 (regs [(7, 0x9C)])) 0xF733).readByte 0x301 = 5 ∧
      (ran (atI 0x300 (regs [(7, 0x9C)])) 0xF733).readByte 0x302 = 6 := by decide
/-- M-15. -/
theorem test_ldB_beyond_memory :
    (ran (atI 0xFFE (regs [(7, 1)])) 0xF733).status = .faulted (.memoryOutOfRange 0x1000) ∧
      (ran (atI 0xFFE (regs [(7, 1)])) 0xF733).readByte 0xFFF = 0 := by decide
/-- M-17. -/
theorem test_ldMemVx :
    (ran (atI 0x400 (regs [(0, 1), (1, 2), (2, 3)])) 0xF255).mem =
      [(0x200, 0xF2), (0x201, 0x55), (0x400, 1), (0x401, 2), (0x402, 3)] := by decide
/-- M-18, M-19. -/
theorem test_ldMemVx_at_the_top :
    (ran (atI 0xFFF (regs [(0, 0xAA)])) 0xF055).readByte 0xFFF = 0xAA ∧
      (ran (atI 0xFFF (regs [(0, 0xAA)])) 0xF155).readByte 0xFFF = 0 := by decide
/-- M-21: font bytes 000..00F. -/
theorem test_ldVxMem :
    (ran State.reset 0xFF65).V.toList =
      [0xF0, 0x90, 0x90, 0x90, 0xF0, 0x20, 0x60, 0x20, 0x20, 0x70, 0xF0, 0x10, 0xF0, 0x80, 0xF0, 0xF0] := by decide
/-- M-22. -/
theorem test_ldVxMem_beyond_memory : (ran (atI 0xFF1) 0xFF65).status = .faulted (.memoryOutOfRange 0x1000) := by decide
/-- M-23, M-25. -/
theorem test_ldRVx :
    (ran (regs [(0, 0xAA), (1, 0xBB)]) 0xF175).rpl.toList = [0xAA, 0xBB, 0, 0, 0, 0, 0, 0] ∧
      (ran State.reset 0xF875).status = .faulted (.rplIndexOutOfRange 8) := by decide
/-- M-24, M-26. -/
theorem test_ldVxR :
    (ran { State.reset with rpl := #v[0xAA, 0xBB, 0, 0, 0, 0, 0, 0] } 0xF185).getV 1 = 0xBB ∧
      (ran State.reset 0xF885).status = .faulted (.rplIndexOutOfRange 8) := by decide
/-- X-1. -/
theorem test_exit :
    (ran { State.reset with pc := 0x204 } 0x00FD).status = .halted ∧
      (ran { State.reset with pc := 0x204 } 0x00FD).pc = 0x206#16 := by decide
/-- X-9, X-10. -/
theorem test_fetch_range :
    (ran { State.reset with pc := 0x1FE } 0x6000).status = .faulted (.pcOutOfRange 0x1FE) ∧
      (ran { State.reset with pc := 0xFFF } 0x6000).status = .faulted (.pcOutOfRange 0xFFF) := by decide
/-- X-11: an odd pc, and R61's byte order. -/
theorem test_odd_fetch : (ran { State.reset with pc := 0x201 } 0x1234).pc = 0x234#16 := by decide

/-! ### Display steps -/

/-- D-1. -/
theorem test_drw :
    (ran State.reset 0xD015).pixel 3 3 = true ∧ (ran State.reset 0xD015).pixel 1 1 = false ∧
      (ran State.reset 0xD015).getV 0xF = 0 ∧ (ran State.reset 0xD015).redraw = true := by decide +kernel
/-- D-12: the old VF is the origin, the collision is what stays in VF; D-9: the 16 by 16 form. -/
theorem test_drw_VF_and_wide :
    (ran (lit [(8, 0)] (regs [(0xF, 8)])) 0xDF15).getV 0xF = 1 ∧
      (ran (lit [(8, 0)] (regs [(0xF, 8)])) 0xDF15).pixel 9 0 = true ∧
      (ran ((atI 0xFE0 ext).storeBytes 0xFE0 (List.replicate 32 0x80)) 0xD010).pixel 8 15 = true := by decide +kernel
/-- D-16. -/
theorem test_cls : (ran (lit [(0, 0), (63, 31)]) 0x00E0).fb = blankFb := by decide +kernel
/-- D-17, D-18. -/
theorem test_scd :
    (ran (lit [(5, 0)] ext) 0x00C2).fb = (lit [(5, 2)] ext).fb ∧ (ran (lit [(3, 30)]) 0x00C2).fb = blankFb := by
  decide +kernel
/-- D-19, D-20. -/
theorem test_scr :
    (ran (lit [(0, 3)]) 0x00FB).fb = (lit [(4, 3)]).fb ∧ (ran (lit [(62, 3)]) 0x00FB).fb = blankFb := by
  decide +kernel
/-- D-21, D-22. -/
theorem test_scl :
    (ran (lit [(4, 10)] ext) 0x00FC).fb = (lit [(0, 10)] ext).fb ∧ (ran (lit [(2, 10)]) 0x00FC).fb = blankFb := by
  decide +kernel
/-- D-24. -/
theorem test_low :
    (ran (lit [(100, 50)] ext) 0x00FE).fb = blankFb ∧ (ran (lit [(100, 50)] ext) 0x00FE).mode = .standard := by
  decide +kernel
/-- D-25. -/
theorem test_high : (ran (lit [(5, 5)]) 0x00FF).fb = blankFb ∧ (ran (lit [(5, 5)]) 0x00FF).mode = .extended := by
  decide +kernel

/-! ### Ports -/

/-- H-1, H-3. -/
theorem test_tick :
    (portTickTimers { State.reset with DT := 1 }).DT = 0 ∧ (portTickTimers { State.reset with DT := 1 }).ST = 0 ∧
      (portTickTimers { State.reset with ST := 3, status := .halted }).ST = 2 := by decide
/-- L-1: the machine of an empty image is the machine at reset, and its first step faults. -/
theorem test_load_empty :
    (match portLoad Config.default [] with
      | .ok m => (portStep ⟨none, 0#8⟩ m).2
      | .error _ => .continues) = .fault (.unknownInstruction 0x0000 0x200) := by decide
/-- L-2. -/
theorem test_load_one_byte :
    (match portLoad Config.default [0xAB#8] with
      | .ok m => m.mem
      | .error _ => []) = [(0x200, 0xAB#8)] := by decide
/-- L-4. -/
theorem test_load_too_large :
    (match portLoad Config.default (List.replicate 3585 0#8) with
      | .ok _ => false
      | .error _ => true) = true := by
  rw [portLoad, if_neg]
  rw [test_wf_refuses_long_image.1]; exact Bool.false_ne_true

/-! ### Witnesses: states and operands that meet the hypotheses of the obligations, clause by clause -/

/-- A running machine about to run `LD V0, 05`. -/
def atLd : State := State.reset.withFetchWord 16 0x6005

theorem test_witness_DecodeIsInverseOfEncode :
    decode 0x6005#16 = some (.ldImm 0 5) ∧ encode (.ldImm 0 5) = 0x6005#16 := by decide

theorem test_witness_OpcodeMapDecidesDecoding :
    (∃ r ∈ opcodeMap, 0x6005#16 &&& r.mask = r.value) ∧ (∀ r ∈ opcodeMap, 0x0000#16 &&& r.mask ≠ r.value) ∧
      ∀ r ∈ opcodeMap, 0xFFFF#16 &&& r.mask ≠ r.value := by decide

theorem test_witness_OpcodeRowsAreDisjoint :
    (⟨0xF000, 0x6000, "LD_VX__NN"⟩ : OpcodeRow) ∈ opcodeMap ∧ 0x6005#16 &&& 0xF000#16 = 0x6000#16 := by decide

theorem test_witness_StepRunsTheDecodedInstruction :
    atLd.status = .running ∧ atLd.fetchable ∧ decode atLd.fetchWord = some (.ldImm 0 5) ∧
      exec (.ldImm 0 5) atLd = .next (atLd.setV 0 5).advance := ⟨rfl, by decide, by decide, rfl⟩

theorem test_witness_FetchIsBigEndian :
    atLd.fetchable ∧ (0x200#12).toNat = atLd.pc.toNat ∧ (0x201#12).toNat = atLd.pc.toNat + 1 ∧
      (atLd.jumpTo 0xFFE).fetchable ∧ (0xFFE#12).toNat = (atLd.jumpTo 0xFFE).pc.toNat ∧
      (0xFFF#12).toNat = (atLd.jumpTo 0xFFE).pc.toNat + 1 := by decide

theorem test_witness_FetchOutsideRangeFaults :
    atLd.status = .running ∧ (atLd.jumpTo 0x1FF).pc.toNat < 0x200 ∧ (atLd.jumpTo 0xFFF).pc.toNat > 0xFFE ∧
      (atLd.jumpTo 0x10FE).pc.toNat > 0xFFE := by decide

theorem test_witness_UnknownWordFaults :
    State.reset.status = .running ∧ State.reset.fetchable ∧ decode State.reset.fetchWord = none := by decide

/-- A halted machine. -/
def halted : State := { State.reset with status := .halted }

/-- A faulted machine. -/
def faulted : State := { State.reset with status := .faulted (.stackUnderflow 0x200) }

theorem test_witness_StoppedMachineGivesStoredOutcome :
    halted.status = .halted ∧ faulted.status = .faulted (.stackUnderflow 0x200) := by decide

/-- One machine for each result of a step (also the premises of `PortStepSuppliesItsInputs`). -/
theorem test_witness_StepResultTellsHowTheRunStands :
    (portStep ⟨none, 0⟩ atLd).2 = .continues ∧ (portStep ⟨none, 0⟩ (State.reset.withFetchWord 16 0x00FD)).2 = .halted ∧
      (portStep ⟨none, 0⟩ State.reset).2 = .fault (.unknownInstruction 0 0x200) := by decide

theorem test_witness_PortStepSuppliesItsInputs :
    (State.reset.withFetchWord 16 0xF50A).status = .running ∧ (State.reset.withFetchWord 16 0xF50A).fetchable ∧
      decode (State.reset.withFetchWord 16 0xF50A).fetchWord = some (.ldVxK 5) := by decide

/-- FX0A with another draw, CXNN with another key, another instruction with both. -/
theorem test_witness_OnlyFx0aAndCxnnReadTheInputs :
    (StepInput.mk (some 0xB) 1).key = (StepInput.mk (some 0xB) 2).key ∧
      (StepInput.mk (some 0xB) 7).rand = (StepInput.mk none 7).rand ∧
      (∃ t, exec (.ldVxK 5) { State.reset with inputs := [⟨some 0xB, 1⟩] } = .next t) ∧
      (∃ t, exec (.rnd 5 0xFF) { State.reset with inputs := [⟨some 0xB, 7⟩] } = .next t) ∧
      ∃ t, exec .cls { State.reset with inputs := [⟨some 0xB, 1⟩] } = .next t :=
  ⟨rfl, rfl, ⟨_, rfl⟩, ⟨_, rfl⟩, ⟨_, rfl⟩⟩

theorem test_witness_AdvanceNeverWraps : (atLd.jumpTo 0x200).fetchable ∧ (atLd.jumpTo 0xFFE).fetchable := by decide

theorem test_witness_ResetValues :
    15 < 16 ∧ 7 < 8 ∧ 8191 < 8192 ∧ 9 < 10 ∧ 4 < 5 ∧ 0xB4 ≤ (0xB4#12).toNat ∧ 0xB4 ≤ (0xFFF#12).toNat := by decide

theorem test_witness_LoadMakesTheResetMachine :
    (List.replicate 3584 0xAB#8).length ≤ 3584 ∧ (List.replicate 3585 0xAB#8).length > 3584 ∧
      0x200 + [0xAB#8].length ≤ (0x201#12).toNat := by
  simp only [List.length_replicate]; decide

/-- A machine with the invariant that steps: an Extended-mode one (for `EveryTurnKeepsTheInvariant` too). -/
theorem test_witness_StepKeepsTheInvariant : ext.Inv ∧ ∃ t, step ext = .next t :=
  ⟨⟨State.reset_wf, by decide, by decide, fun a h => absurd h List.not_mem_nil, fun h => absurd h (by decide)⟩,
    ⟨_, rfl⟩⟩

theorem test_witness_InvariantHoldsUnderEveryDriver : ∃ m, portLoad Config.default [0x60#8, 0x05#8] = .ok m :=
  ⟨_, rfl⟩

/-- Each fault of an instruction, and an instruction without one. -/
theorem test_witness_FaultsAreExactlyTheRulesAndPrecise :
    State.reset.status = .running ∧ State.reset.sp ≤ State.reset.cfg.stackCapacity.toNat ∧
      (calls 48).status = .running ∧ (calls 48).sp ≤ (calls 48).cfg.stackCapacity.toNat ∧
      faultCondition (.call 0x300) (calls 48) = some (.stackOverflow 0x200) ∧
      faultCondition .ret State.reset = some (.stackUnderflow 0x200) ∧
      faultCondition (.skp 0) (regs [(0, 16)]) = some (.keyIndexOutOfRange 16) ∧
      faultCondition (.drw 0 0 2) (atI 0xFFF) = some (.memoryOutOfRange 0x1000) ∧
      faultCondition (.drw 0 0 0) (atI 0xFE1 ext) = some (.memoryOutOfRange 0x1000) ∧
      faultCondition (.drw 0 0 0) (atI 0xFE1) = none ∧
      faultCondition (.ldF 0) (regs [(0, 16)]) = some (.fontDigitOutOfRange 16) ∧
      faultCondition (.ldHf 0) (regs [(0, 10)]) = some (.fontDigitOutOfRange 10) ∧
      faultCondition (.ldB 0) (atI 0xFFE) = some (.memoryOutOfRange 0x1000) ∧
      faultCondition (.ldMemVx 1) (atI 0xFFF) = some (.memoryOutOfRange 0x1000) ∧
      faultCondition (.ldVxR 8) State.reset = some (.rplIndexOutOfRange 8) ∧
      faultCondition .cls State.reset = none := by decide

/-- Every clause of `EachFieldHasOnlyItsWriters`: a step that changes that field. -/
theorem test_witness_EachFieldHasOnlyItsWriters :
    (ran State.reset 0xA2F0).I ≠ State.reset.I ∧ (ran (regs [(0, 1)]) 0xF075).rpl ≠ State.reset.rpl ∧
      (ran State.reset 0x2300).stack ≠ State.reset.stack ∧
      (ran (atI 0x300 (regs [(0, 1)])) 0xF055).mem ≠ (State.reset.withFetchWord 16 0xF055).mem ∧
      (ran (regs [(0, 1)]) 0xF015).DT ≠ State.reset.DT ∧ (ran (regs [(0, 1)]) 0xF018).ST ≠ State.reset.ST ∧
      (ran State.reset 0xD015).fb ≠ State.reset.fb ∧ (ran State.reset 0x00E0).redraw ≠ State.reset.redraw ∧
      (ran State.reset 0x00FF).mode ≠ State.reset.mode ∧ (ran State.reset 0x00FD).status ≠ State.reset.status := by
  decide +kernel

/-- The depths of R31 that meet the premise, the full stack too; one kind of pc each: fault, target, popped address,
skip, wait, advance. -/
theorem test_witness_EveryInstructionHasANextStateAtItsPc :
    (calls 48).sp ≤ (calls 48).cfg.stackCapacity.toNat ∧ pcAfter (.call 0x300) (calls 48) = 0x200 ∧
      pcAfter (.call 0x300) (calls 47) = 0x300 ∧ pcAfter .ret (calls 48) = 0x202 ∧
      pcAfter (.seImm 0 0) State.reset = 0x204 ∧
      pcAfter (.ldVxK 0) { State.reset with inputs := [⟨none, 0⟩] } = 0x200 ∧ pcAfter .exit State.reset = 0x202 := by
  decide

/-- Two different states with the same record and parameters. -/
theorem test_witness_RecordIsTheWholeState :
    State.reset.toRecord = ({ State.reset with inputs := [⟨some 0xB, 7⟩], turn := 3 } : State).toRecord ∧
      State.reset.cfg = ({ State.reset with inputs := [⟨some 0xB, 7⟩], turn := 3 } : State).cfg ∧
      State.reset ≠ { State.reset with inputs := [⟨some 0xB, 7⟩], turn := 3 } :=
  ⟨rfl, rfl, fun h => absurd (congrArg (fun u => u.turn) h) (by decide)⟩

theorem test_witness_EachRegisterHasOnlyItsWriters :
    ∃ t, exec (.ldImm 0 5) State.reset = .next t ∧ t.getV 0 ≠ State.reset.getV 0 := ⟨_, rfl, by decide⟩

theorem test_witness_JumpGoesToNNN :
    State.reset.status = .running ∧ (0x1FF#12).toNat < 0x200 ∧ (0xFFF#12) = 0xFFF#12 := by decide

/-- Targets beyond the range above and below it. -/
theorem test_witness_JumpWithOffsetAddsV0 :
    (targetV0 (regs [(0, 0xFF)]) 0xFFF).toNat > 0xFFE ∧ (targetV0 (regs [(0, 0xFF)]) 0x100).toNat < 0x200 := by decide

/-- The last free entry and the full stack, with either capacity. -/
theorem test_witness_CallPushesTheReturnAddress :
    (calls 47).sp < (calls 47).cfg.stackCapacity.toNat ∧ (calls 48).sp = (calls 48).cfg.stackCapacity.toNat ∧
      calls64.sp < calls64.cfg.stackCapacity.toNat := by decide

theorem test_witness_ReturnPopsTheReturnAddress :
    (calls 2).stack = [0x202#16] ++ [0x202#16] ∧ (calls 1).stack = [] ++ [0x202#16] ∧ (calls 0).sp = 0 := by decide

theorem test_witness_CallThenReturnComesBack :
    (calls 47).sp < (calls 47).cfg.stackCapacity.toNat ∧
      exec (.call 0x300) (calls 47) = .next (((calls 47).push 0x202).jumpTo 0x300) := ⟨by decide, rfl⟩

theorem test_witness_SkipsOnRegisters : (1#4 : Nibble) ≠ 0#4 ∧ (0xF#4 : Nibble) ≠ 0#4 := by decide

/-- The last key, pressed and not, and the first value that names no key. -/
theorem test_witness_SkipsOnKeys :
    (portSetKey 0xF true (regs [(0, 15)])).key[((portSetKey 0xF true (regs [(0, 15)])).getV 0).toNat]? = some true ∧
      (regs [(0, 15)]).key[((regs [(0, 15)]).getV 0).toNat]? = some false ∧ ((regs [(0, 16)]).getV 0).toNat > 0xF := by
  decide

/-- The last position of each screen, and a cell off the Standard one (for the draws, scrolls and clears). -/
theorem test_witness_screen_positions :
    (63 < Mode.standard.width ∧ 31 < Mode.standard.height) ∧ (127 < Mode.extended.width ∧ 63 < Mode.extended.height) ∧
      Mode.standard.width * Mode.standard.height ≤ 2048 ∧ 8191 < 8192 := by decide

/-- A destination other than VF (for AddSetsCarry, SubtractionsStoreTheAbsoluteDifference, ShiftsPutTheLostBitInVF). -/
theorem test_witness_destination_not_VF : (0xE#4 : Reg) ≠ 0xF#4 := by decide

/-- Sprites that end on the last byte, that reach one byte further, and the empty one; a collision and none. -/
theorem test_witness_DrawXorsTheClippedSprite :
    spriteInMemory (atI 0xFFF) 1 ∧ spriteInMemory (atI 0xFE0 ext) 0 ∧ spriteInMemory (atI 0xFFF) 0 ∧
      ((2#4 : Nibble) ≠ 0#4 ∧ (atI 0xFFF).I.toNat + (2#4 : Nibble).toNat - 1 > 0xFFF) ∧
      (ext.mode = .extended ∧ (atI 0xFE1 ext).I.toNat + 31 > 0xFFF) := by
  unfold spriteInMemory; decide

/-- A covered position and one that is not, inside the screen, and a cell that the draw clears. -/
theorem test_witness_DrawXorsTheClippedSprite_cells :
    (spriteCovers State.reset 0 1 5 0 0) ∧ (lit [(0, 0)]).pixel 0 0 = true ∧
      (ran (lit [(0, 0)]) 0xD015).pixel 0 0 = false ∧ 63 < Mode.standard.width ∧ 31 < Mode.standard.height := by
  refine ⟨⟨0, 0, ?_⟩, ?_⟩ <;> decide +kernel

theorem test_witness_DrawTwiceRestoresTheScreen :
    (0#4 : Reg) ≠ 0xF#4 ∧ (1#4 : Reg) ≠ 0xF#4 ∧ spriteInMemory State.reset 5 ∧
      ∃ t, exec (.drw 0 1 5) State.reset = .next t := by
  refine ⟨by decide, by decide, ?_, ⟨_, rfl⟩⟩
  unfold spriteInMemory; decide

theorem test_witness_ExitHaltsCleanly :
    (State.reset.withFetchWord 16 0x00FD).status = .running ∧ (State.reset.withFetchWord 16 0x00FD).fetchable ∧
      decode (State.reset.withFetchWord 16 0x00FD).fetchWord = some .exit := by decide

/-- The clause on the port step: see also `test_witness_PortStepSuppliesItsInputs`. -/
theorem test_witness_KeyReadWaitsForKeyIn :
    ({ State.reset with inputs := [⟨none, 0⟩] } : State).input.key = none ∧
      ({ State.reset with inputs := [⟨some 0xF, 0⟩] } : State).input.key = some 0xF := by decide

/-- The last digit of each font and the first value beyond it. -/
theorem test_witness_FontLoadsPointAtTheGlyph :
    ((regs [(0, 15)]).getV 0).toNat ≤ 0xF ∧ ((regs [(0, 16)]).getV 0).toNat > 0xF ∧
      ((regs [(0, 9)]).getV 0).toNat ≤ 9 ∧ ((regs [(0, 10)]).getV 0).toNat > 9 := by decide

/-- The last I that fits and the first that does not. -/
theorem test_witness_DecimalDigitsAreStored :
    (atI 0xFFD).I.toNat + 2 ≤ 0xFFF ∧ (atI 0xFFE).I.toNat + 2 > 0xFFF ∧
      (0xFFC#12 : Addr) ≠ (atI 0xFFD).I ∧ (0xFFC#12 : Addr) ≠ (atI 0xFFD).I + 1#12 ∧
      (0xFFC#12 : Addr) ≠ (atI 0xFFD).I + 2#12 := by decide

/-- For RegistersAreStoredAtI and RegistersAreLoadedFromI: the last I that fits and the first that does not. -/
theorem test_witness_register_blocks :
    (atI 0xFF0).I.toNat + (0xF#4 : Reg).toNat ≤ 0xFFF ∧ (atI 0xFF1).I.toNat + (0xF#4 : Reg).toNat > 0xFFF ∧
      ∀ z : Reg, (0xFEF#12 : Addr) ≠ (atI 0xFF0).I + z.setWidth 12 := by decide

theorem test_witness_RplFlagsAreStoredAndLoaded : (7#4 : Reg).toNat ≤ 7 ∧ (8#4 : Reg).toNat > 7 := by decide

/-- M-27: V0 stored at the high byte of the next word, and at its low byte. -/
theorem test_witness_StoredBytesAreFetchedAtOnce :
    ((atI 0x203).I.toNat + (0#4 : Reg).toNat ≤ 0xFFF ∧ (0#4 : Reg).toNat ≤ (0#4 : Reg).toNat) ∧
      (∃ t, exec (.ldMemVx 0) (atI 0x202) = .next t ∧ t.pc.toNat = (atI 0x202).I.toNat + (0#4 : Reg).toNat) ∧
      ∃ t, exec (.ldMemVx 0) (atI 0x203) = .next t ∧ t.pc.toNat + 1 = (atI 0x203).I.toNat + (0#4 : Reg).toNat :=
  ⟨by decide, ⟨_, rfl, by decide⟩, ⟨_, rfl, by decide⟩⟩

theorem test_witness_HostPortsTouchOnlyTheirOwn :
    (0 : Nat) ≠ (7#4 : Nibble).toNat ∧ 63 < State.reset.mode.width ∧ 31 < State.reset.mode.height := by decide

theorem test_witness_StoppedMachineStaysAsItIs : halted.status ≠ .running ∧ faulted.status ≠ .running := by decide

end Sys2Proof.Tests
end

section
/-! The fonts and zeros that memory reads as before any write (spec/20_memory.md rule R63), and the reset values
(spec/10_state.md rule R43). -/

namespace Sys2Proof.Machine

/-! ### The contents of an unwritten memory -/

/-- Row `r` of small glyph `d` stands at 5·d + r (R63). -/
theorem Memory.unlisted_smallFont (c : Config) {d r : Nat} (hd : d < 16) (hr : r < 5) :
    Memory.unlisted c (5 * d + r) = c.smallFont[d][r] := by
  have hdiv : (5 * d + r) / 5 = d := by omega
  have hmod : (5 * d + r) % 5 = r := by omega
  have hlt : 5 * d + r < 0x50 := by omega
  simp only [Memory.unlisted, hlt, ↓reduceDIte, hdiv, hmod]

/-- Row `r` of big glyph `d` stands at 0x050 + 10·d + r (R63). -/
theorem Memory.unlisted_bigFont (c : Config) {d r : Nat} (hd : d < 10) (hr : r < 10) :
    Memory.unlisted c (0x50 + 10 * d + r) = c.bigFont[d][r] := by
  have hdiv : (0x50 + 10 * d + r - 0x50) / 10 = d := by omega
  have hmod : (0x50 + 10 * d + r - 0x50) % 10 = r := by omega
  have hge : ¬ 0x50 + 10 * d + r < 0x50 := by omega
  have hlt : 0x50 + 10 * d + r < 0xB4 := by omega
  simp only [Memory.unlisted, hge, hlt, ↓reduceDIte, hdiv, hmod]

/-- Above the fonts an unwritten memory is zero (R63). -/
theorem Memory.unlisted_of_ge (c : Config) {a : Nat} (ha : 0xB4 ≤ a) : Memory.unlisted c a = 0#8 := by
  have hsmall : ¬ a < 0x50 := by omega
  have hbig : ¬ a < 0xB4 := by omega
  simp only [Memory.unlisted, hsmall, hbig, ↓reduceDIte]

/-! ### The reset state -/

/-- Reset lists no cell, so every byte reads as in an unwritten memory. -/
theorem State.readByte_reset (a : Addr) : State.reset.readByte a = Memory.unlisted Config.default a.toNat :=
  Memory.read_nil Config.default a.toNat

/-- The same at an address given as a number below 0x1000. -/
theorem State.readByte_reset_ofNat {a : Nat} (ha : a < 0x1000) :
    State.reset.readByte (BitVec.ofNat 12 a) = Memory.unlisted Config.default a := by
  rw [State.readByte_reset, BitVec.toNat_ofNat, Nat.mod_eq_of_lt ha]

@[simp] theorem State.getV_reset (x : Reg) : State.reset.getV x = 0#8 := Vector.getElem_replicate x.isLt

theorem State.key_reset {k : Nat} (hk : k < 16) : State.reset.key[k]? = some false :=
  Vector.getElem?_replicate_of_lt hk

theorem State.rpl_reset {i : Nat} (hi : i < 8) : State.reset.rpl[i]? = some 0#8 :=
  Vector.getElem?_replicate_of_lt hi

/-- Settles O14: the plain fields by definition, the arrays and the memory by the reset lemmas. -/
theorem resetValues : Obligations.ResetValues := by
  have hsmall (d r : Nat) (hd : d < 16) (hr : r < 5) :
      State.reset.readByte (BitVec.ofNat 12 (5 * d + r)) = Config.default.smallFont[d][r] :=
    (State.readByte_reset_ofNat (by omega)).trans (Memory.unlisted_smallFont Config.default hd hr)
  have hbig (d r : Nat) (hd : d < 10) (hr : r < 10) :
      State.reset.readByte (BitVec.ofNat 12 (0x50 + 10 * d + r)) = Config.default.bigFont[d][r] :=
    (State.readByte_reset_ofNat (by omega)).trans (Memory.unlisted_bigFont Config.default hd hr)
  have hzero (a : Addr) (ha : 0xB4 ≤ a.toNat) : State.reset.readByte a = 0#8 :=
    (State.readByte_reset a).trans (Memory.unlisted_of_ge Config.default ha)
  exact ⟨State.getV_reset, rfl, rfl, rfl, rfl, rfl, rfl, fun _ => State.key_reset, fun _ => State.rpl_reset,
    fun j _ => Fb.cell_blank j, rfl, rfl, rfl, hsmall, hbig, hzero⟩

end Sys2Proof.Machine
end

section
/-! The machine that `load` makes (spec/20_memory.md rule R63, rules R240 and R241 of the load port): which images are
accepted, and what each byte of memory reads as. -/

namespace Sys2Proof.Machine

/-- The machine of an accepted image: reset with the parameters `c` and the image stored from 0x200 on. -/
def State.loaded (c : Config) (image : List Byte) : State :=
  { State.reset with cfg := c }.storeBytes loadAddr image

/-! ### Which images are accepted -/

theorem portLoad_of_le (c : Config) {image : List Byte} (h : image.length ≤ 3584) :
    portLoad c image = .ok (State.loaded c image) :=
  if_pos (decide_eq_true h)

theorem portLoad_of_gt (c : Config) {image : List Byte} (h : image.length > 3584) :
    portLoad c image = .error .programTooLarge :=
  if_neg fun hwf => Nat.not_le_of_gt h (of_decide_eq_true hwf)

/-! ### The memory of a loaded machine -/

/-- The size limit keeps the image's addresses from wrapping. -/
theorem loadAddr_add_toNat {k : Nat} (hk : k < 3584) : (loadAddr + BitVec.ofNat 12 k).toNat = 0x200 + k := by
  simp only [loadAddr, BitVec.toNat_add, BitVec.toNat_ofNat]
  omega

/-- Byte `k` of the image stands at 0x200 + k (R63). -/
theorem State.readByte_loaded_image (c : Config) {image : List Byte} (hl : image.length ≤ 3584) {k : Nat}
    (hk : k < image.length) : (State.loaded c image).readByte (BitVec.ofNat 12 (0x200 + k)) = image[k] := by
  rw [BitVec.ofNat_add]
  exact State.readByte_storeBytes _ loadAddr image k hk (by omega)

/-- Below and above the image a loaded machine reads as an unwritten memory. -/
theorem State.readByte_loaded_outside (c : Config) {image : List Byte} (hl : image.length ≤ 3584) {a : Addr}
    (ha : a.toNat < 0x200 ∨ 0x200 + image.length ≤ a.toNat) :
    (State.loaded c image).readByte a = Memory.unlisted c a.toNat := by
  have hout (k : Nat) (hk : k < image.length) : a ≠ loadAddr + BitVec.ofNat 12 k := by
    rintro rfl
    rw [loadAddr_add_toNat (by omega)] at ha
    omega
  rw [State.loaded, State.readByte_storeBytes_other _ loadAddr a image hout]
  exact Memory.read_nil c a.toNat

/-- The same at an address given as a number below the image. -/
theorem State.readByte_loaded_ofNat (c : Config) {image : List Byte} (hl : image.length ≤ 3584) {a : Nat}
    (ha : a < 0x200) : (State.loaded c image).readByte (BitVec.ofNat 12 a) = Memory.unlisted c a := by
  have htoNat : (BitVec.ofNat 12 a).toNat = a := Nat.mod_eq_of_lt (by omega)
  rw [State.readByte_loaded_outside c hl (.inl (by omega)), htoNat]

/-- Settles O15: an accepted image gives `State.loaded`, whose bytes are the image's inside the block and those of an
unwritten memory outside it. -/
theorem loadMakesTheResetMachine : Obligations.LoadMakesTheResetMachine := by
  intro c image
  refine ⟨fun hl => ?_, portLoad_of_gt c⟩
  have hsmall (d r : Nat) (hd : d < 16) (hr : r < 5) :
      (State.loaded c image).readByte (BitVec.ofNat 12 (5 * d + r)) = c.smallFont[d][r] :=
    (State.readByte_loaded_ofNat c hl (by omega)).trans (Memory.unlisted_smallFont c hd hr)
  have hbig (d r : Nat) (hd : d < 10) (hr : r < 10) :
      (State.loaded c image).readByte (BitVec.ofNat 12 (0x50 + 10 * d + r)) = c.bigFont[d][r] :=
    (State.readByte_loaded_ofNat c hl (by omega)).trans (Memory.unlisted_bigFont c hd hr)
  have hzero (a : Addr) (hge : 0xB4 ≤ a.toNat) (ha : a.toNat < 0x200 ∨ 0x200 + image.length ≤ a.toNat) :
      (State.loaded c image).readByte a = 0#8 :=
    (State.readByte_loaded_outside c hl ha).trans (Memory.unlisted_of_ge c hge)
  exact ⟨State.loaded c image, portLoad_of_le c hl, State.storeBytes_eq _ loadAddr image, hsmall, hbig,
    fun a hge hlt => hzero a hge (.inl hlt), fun k => State.readByte_loaded_image c hl,
    fun a ha => hzero a (by omega) (.inr ha)⟩

end Sys2Proof.Machine
end

section
/-! The decoder, the encoder and the opcode map of spec/30_encoding.md: `encode` and `decode` are inverse to each other
(R84), and each row of the map of R85 is the format of one instruction. -/

namespace Sys2Proof

/-! ### Decoding a word of the encoder -/

/-- The word of an instruction decodes to it. -/
theorem decode_encode : ∀ i : Instr, decode (encode i) = some i
  | .scd n => Laws.RoundTrip.scd n
  | .cls => Laws.RoundTrip.cls
  | .ret => Laws.RoundTrip.ret
  | .scr => Laws.RoundTrip.scr
  | .scl => Laws.RoundTrip.scl
  | .exit => Laws.RoundTrip.exit
  | .low => Laws.RoundTrip.low
  | .high => Laws.RoundTrip.high
  | .jp nnn => Laws.RoundTrip.jp nnn
  | .call nnn => Laws.RoundTrip.call nnn
  | .seImm x nn => Laws.RoundTrip.seImm x nn
  | .sneImm x nn => Laws.RoundTrip.sneImm x nn
  | .seReg x y => Laws.RoundTrip.seReg x y
  | .ldImm x nn => Laws.RoundTrip.ldImm x nn
  | .addImm x nn => Laws.RoundTrip.addImm x nn
  | .ldReg x y => Laws.RoundTrip.ldReg x y
  | .orReg x y => Laws.RoundTrip.orReg x y
  | .andReg x y => Laws.RoundTrip.andReg x y
  | .xorReg x y => Laws.RoundTrip.xorReg x y
  | .addReg x y => Laws.RoundTrip.addReg x y
  | .subReg x y => Laws.RoundTrip.subReg x y
  | .shr x y => Laws.RoundTrip.shr x y
  | .subn x y => Laws.RoundTrip.subn x y
  | .shl x y => Laws.RoundTrip.shl x y
  | .sneReg x y => Laws.RoundTrip.sneReg x y
  | .ldI nnn => Laws.RoundTrip.ldI nnn
  | .jpV0 nnn => Laws.RoundTrip.jpV0 nnn
  | .rnd x nn => Laws.RoundTrip.rnd x nn
  | .drw x y n => Laws.RoundTrip.drw x y n
  | .skp x => Laws.RoundTrip.skp x
  | .sknp x => Laws.RoundTrip.sknp x
  | .ldVxDt x => Laws.RoundTrip.ldVxDt x
  | .ldVxK x => Laws.RoundTrip.ldVxK x
  | .ldDtVx x => Laws.RoundTrip.ldDtVx x
  | .ldStVx x => Laws.RoundTrip.ldStVx x
  | .addIVx x => Laws.RoundTrip.addIVx x
  | .ldF x => Laws.RoundTrip.ldF x
  | .ldHf x => Laws.RoundTrip.ldHf x
  | .ldB x => Laws.RoundTrip.ldB x
  | .ldMemVx x => Laws.RoundTrip.ldMemVx x
  | .ldVxMem x => Laws.RoundTrip.ldVxMem x
  | .ldRVx x => Laws.RoundTrip.ldRVx x
  | .ldVxR x => Laws.RoundTrip.ldVxR x

/-! ### Encoding a decoded instruction -/

/-! The fields of a word, put after the fixed digits of its format, give the word back. -/

section Formats
variable {w : Word}

theorem addr_eq_word {a : Nibble} (ha : fieldMajor w = a) : a ++ fieldNNN w = w := by
  subst ha; exact (word_eq_addr w).symm

theorem xnn_eq_word {a : Nibble} (ha : fieldMajor w = a) : a ++ fieldX w ++ fieldNN w = w := by
  subst ha; exact (word_eq_xnn w).symm

theorem xyn_eq_word {a : Nibble} (ha : fieldMajor w = a) : a ++ fieldX w ++ fieldY w ++ fieldN w = w := by
  subst ha; exact (word_eq_xyn w).symm

theorem xkk_eq_word {a : Nibble} {b : Byte} (ha : fieldMajor w = a) (hb : fieldNN w = b) :
    a ++ fieldX w ++ b = w := by
  subst hb; exact xnn_eq_word ha

theorem xyk_eq_word {a n : Nibble} (ha : fieldMajor w = a) (hn : fieldN w = n) :
    a ++ fieldX w ++ fieldY w ++ n = w := by
  subst hn; exact xyn_eq_word ha

/-- The digits 00C of a scroll word are its three upper nibbles. -/
theorem scroll_eq_word (ha : fieldMajor w = 0x0#4) (hx : fieldX w = 0x0#4) (hy : fieldY w = 0xC#4) :
    0x00C#12 ++ fieldN w = w := by
  have h := xyn_eq_word ha
  rw [hx, hy] at h
  exact h

/-- A word of a system instruction other than the scroll is fixed by its low byte. -/
theorem system_eq_word {b : Byte} (ha : fieldMajor w = 0x0#4) (hx : fieldX w = 0x0#4) (hb : fieldNN w = b) :
    0x0#4 ++ 0x0#4 ++ b = w := by
  have h := xkk_eq_word ha hb
  rwa [hx] at h

end Formats

/-- If the decoder's answer `o` is an instruction, `w` is its word. -/
def Encodes (w : Word) (o : Option Instr) : Prop := ∀ i, o = some i → encode i = w

section DecodeEncodes
variable {w : Word}

theorem Encodes.none : Encodes w none := by
  intro i h
  cases h

theorem Encodes.some {j : Instr} (hj : encode j = w) : Encodes w (some j) := by
  intro i h
  cases h
  exact hj

/-- One test of the decoder: the instruction it answers, or the tests after it. -/
theorem Encodes.ite {c : Prop} [Decidable c] {j : Instr} {o : Option Instr} (hj : c → encode j = w)
    (ho : Encodes w o) : Encodes w (if c then .some j else o) := by
  split
  case isTrue hc => exact .some (hj hc)
  case isFalse => exact ho

theorem decodeMajor0_encodes (ha : fieldMajor w = 0x0#4) : Encodes w (decodeMajor0 w) := by
  unfold decodeMajor0
  split
  case isTrue => exact .none
  case isFalse hx =>
    have hfixed {b : Byte} := system_eq_word (b := b) ha (not_not.mp hx)
    exact .ite (scroll_eq_word ha (not_not.mp hx)) <| .ite hfixed <| .ite hfixed <| .ite hfixed <| .ite hfixed <|
      .ite hfixed <| .ite hfixed <| .ite hfixed .none

theorem decodeMajor8_encodes (ha : fieldMajor w = 0x8#4) : Encodes w (decodeMajor8 w) :=
  have hxyk {n : Nibble} := xyk_eq_word (n := n) ha
  .ite hxyk <| .ite hxyk <| .ite hxyk <| .ite hxyk <| .ite hxyk <| .ite hxyk <| .ite hxyk <| .ite hxyk <|
    .ite hxyk .none

theorem decodeMajorE_encodes (ha : fieldMajor w = 0xE#4) : Encodes w (decodeMajorE w) :=
  .ite (xkk_eq_word ha) <| .ite (xkk_eq_word ha) .none

theorem decodeMajorF_encodes (ha : fieldMajor w = 0xF#4) : Encodes w (decodeMajorF w) :=
  have hxkk {b : Byte} := xkk_eq_word (b := b) ha
  .ite hxkk <| .ite hxkk <| .ite hxkk <| .ite hxkk <| .ite hxkk <| .ite hxkk <| .ite hxkk <| .ite hxkk <|
    .ite hxkk <| .ite hxkk <| .ite hxkk <| .ite hxkk .none

/-- The decoder answers only instructions of which `w` is the word. -/
theorem decode_encodes (w : Word) : Encodes w (decode w) := by
  unfold decode
  split
  case h_1 ha => exact decodeMajor0_encodes ha
  case h_2 ha | h_3 ha | h_11 ha | h_12 ha => exact .some (addr_eq_word ha)
  case h_4 ha | h_5 ha | h_7 ha | h_8 ha | h_13 ha => exact .some (xnn_eq_word ha)
  case h_6 ha | h_10 ha => exact .ite (xyk_eq_word ha) .none
  case h_9 ha => exact decodeMajor8_encodes ha
  case h_14 ha => exact .some (xyn_eq_word ha)
  case h_15 ha => exact decodeMajorE_encodes ha
  case h_16 =>
    -- the major opcode that the fifteen cases before leave
    have ha : fieldMajor w = 0xF#4 := by
      generalize fieldMajor w = a at *
      decide +revert
    exact decodeMajorF_encodes ha

end DecodeEncodes

/-! ### Each row of the opcode map -/

/-- Every word matching the row decodes to an instruction with its mnemonic. -/
def OpcodeRow.Decodes (r : OpcodeRow) : Prop :=
  ∀ w : Word, w &&& r.mask = r.value → ∃ i, decode w = some i ∧ i.mnemonic = r.mnemonic

/-- A word of the encoder decodes to an instruction with the mnemonic of the one encoded. -/
theorem exists_decode_of_encode {i : Instr} {w : Word} {m : String} (hw : encode i = w) (hm : i.mnemonic = m) :
    ∃ j, decode w = some j ∧ j.mnemonic = m :=
  ⟨i, hw ▸ decode_encode i, hm⟩

/-- A field that the mask keeps whole is the field of the row's value. -/
theorem field_of_and_eq {w mask value : Word} (h : w &&& mask = value) (s k : Nat)
    (hmask : mask.extractLsb' s k = BitVec.allOnes k) : w.extractLsb' s k = value.extractLsb' s k := by
  rw [← h, BitVec.extractLsb'_and, hmask, BitVec.and_allOnes]

/-! One lemma per format of R82: the row that fixes the digits `a`, `b` and `n` of the format is met by the words of the
instruction `f` alone, whose word and mnemonic are given by definition. -/

namespace OpcodeRow.Decodes

section
variable {m : String}

theorem addr (a : Nibble) (f : Addr → Instr) (hf : ∀ nnn, encode (f nnn) = a ++ nnn := by intros; rfl)
    (hm : ∀ nnn, (f nnn).mnemonic = m := by intros; rfl) : Decodes ⟨0xF000, a ++ 0x000#12, m⟩ := by
  intro w (h : w &&& 0xF000 = a ++ 0x000#12)
  have ha : fieldMajor w = a := (field_of_and_eq h 12 4 (by decide)).trans (fieldMajor_eq a _)
  exact exists_decode_of_encode ((hf _).trans (addr_eq_word ha)) (hm _)

theorem xnn (a : Nibble) (f : Reg → Byte → Instr) (hf : ∀ x nn, encode (f x nn) = a ++ x ++ nn := by intros; rfl)
    (hm : ∀ x nn, (f x nn).mnemonic = m := by intros; rfl) : Decodes ⟨0xF000, a ++ 0x000#12, m⟩ := by
  intro w (h : w &&& 0xF000 = a ++ 0x000#12)
  have ha : fieldMajor w = a := (field_of_and_eq h 12 4 (by decide)).trans (fieldMajor_eq a _)
  exact exists_decode_of_encode ((hf _ _).trans (xnn_eq_word ha)) (hm _ _)

theorem xyn (a : Nibble) (f : Reg → Reg → Nibble → Instr)
    (hf : ∀ x y n, encode (f x y n) = a ++ x ++ y ++ n := by intros; rfl)
    (hm : ∀ x y n, (f x y n).mnemonic = m := by intros; rfl) : Decodes ⟨0xF000, a ++ 0x000#12, m⟩ := by
  intro w (h : w &&& 0xF000 = a ++ 0x000#12)
  have ha : fieldMajor w = a := (field_of_and_eq h 12 4 (by decide)).trans (fieldMajor_eq a _)
  exact exists_decode_of_encode ((hf _ _ _).trans (xyn_eq_word ha)) (hm _ _ _)

theorem xkk (a : Nibble) (b : Byte) (f : Reg → Instr) (hf : ∀ x, encode (f x) = a ++ x ++ b := by intros; rfl)
    (hm : ∀ x, (f x).mnemonic = m := by intros; rfl) : Decodes ⟨0xF0FF, a ++ 0x0#4 ++ b, m⟩ := by
  intro w (h : w &&& 0xF0FF = a ++ 0x0#4 ++ b)
  have ha : fieldMajor w = a := (field_of_and_eq h 12 4 (by decide)).trans (fieldMajor_xnn a _ b)
  have hb : fieldNN w = b := (field_of_and_eq h 0 8 (by decide)).trans (fieldNN_xnn a _ b)
  exact exists_decode_of_encode ((hf _).trans (xkk_eq_word ha hb)) (hm _)

theorem xyk (a n : Nibble) (f : Reg → Reg → Instr)
    (hf : ∀ x y, encode (f x y) = a ++ x ++ y ++ n := by intros; rfl)
    (hm : ∀ x y, (f x y).mnemonic = m := by intros; rfl) : Decodes ⟨0xF00F, a ++ 0x0#4 ++ 0x0#4 ++ n, m⟩ := by
  intro w (h : w &&& 0xF00F = a ++ 0x0#4 ++ 0x0#4 ++ n)
  have ha : fieldMajor w = a := (field_of_and_eq h 12 4 (by decide)).trans (fieldMajor_xyn a _ _ n)
  have hn : fieldN w = n := (field_of_and_eq h 0 4 (by decide)).trans (fieldN_xyn a _ _ n)
  exact exists_decode_of_encode ((hf _ _).trans (xyk_eq_word ha hn)) (hm _ _)

end

/-- The row 00CN. -/
theorem scd : Decodes ⟨0xFFF0, 0x00C0, "SCD_N"⟩ := by
  intro w h
  have ha : fieldMajor w = 0x0#4 := field_of_and_eq h 12 4 rfl
  have hx : fieldX w = 0x0#4 := field_of_and_eq h 8 4 rfl
  have hy : fieldY w = 0xC#4 := field_of_and_eq h 4 4 rfl
  exact exists_decode_of_encode (i := .scd (fieldN w)) (scroll_eq_word ha hx hy) rfl

/-- The row of a fixed word, whose mask keeps every bit. -/
theorem fixed (i : Instr) : Decodes ⟨0xFFFF, encode i, i.mnemonic⟩ := by
  intro w h
  exact exists_decode_of_encode ((BitVec.and_allOnes (x := w)).symm.trans h).symm rfl

end OpcodeRow.Decodes

theorem opcodeMapSystem_decodes : ∀ r ∈ opcodeMapSystem, r.Decodes := by
  simp only [opcodeMapSystem, List.forall_mem_cons]
  exact
    ⟨.scd,
     .fixed .cls,
     .fixed .ret,
     .fixed .scr,
     .fixed .scl,
     .fixed .exit,
     .fixed .low,
     .fixed .high,
     List.forall_mem_nil _⟩

theorem opcodeMapControl_decodes : ∀ r ∈ opcodeMapControl, r.Decodes := by
  simp only [opcodeMapControl, List.forall_mem_cons]
  exact
    ⟨.addr 0x1 .jp,
     .addr 0x2 .call,
     .xnn 0x3 .seImm,
     .xnn 0x4 .sneImm,
     .xyk 0x5 0x0 .seReg,
     List.forall_mem_nil _⟩

theorem opcodeMapAlu_decodes : ∀ r ∈ opcodeMapAlu, r.Decodes := by
  simp only [opcodeMapAlu, List.forall_mem_cons]
  exact
    ⟨.xnn 0x6 .ldImm,
     .xnn 0x7 .addImm,
     .xyk 0x8 0x0 .ldReg,
     .xyk 0x8 0x1 .orReg,
     .xyk 0x8 0x2 .andReg,
     .xyk 0x8 0x3 .xorReg,
     .xyk 0x8 0x4 .addReg,
     .xyk 0x8 0x5 .subReg,
     .xyk 0x8 0x6 .shr,
     .xyk 0x8 0x7 .subn,
     .xyk 0x8 0xE .shl,
     List.forall_mem_nil _⟩

theorem opcodeMapMixed_decodes : ∀ r ∈ opcodeMapMixed, r.Decodes := by
  simp only [opcodeMapMixed, List.forall_mem_cons]
  exact
    ⟨.xyk 0x9 0x0 .sneReg,
     .addr 0xA .ldI,
     .addr 0xB .jpV0,
     .xnn 0xC .rnd,
     .xyn 0xD .drw,
     .xkk 0xE 0x9E .skp,
     .xkk 0xE 0xA1 .sknp,
     List.forall_mem_nil _⟩

theorem opcodeMapF_decodes : ∀ r ∈ opcodeMapF, r.Decodes := by
  simp only [opcodeMapF, List.forall_mem_cons]
  exact
    ⟨.xkk 0xF 0x07 .ldVxDt,
     .xkk 0xF 0x0A .ldVxK,
     .xkk 0xF 0x15 .ldDtVx,
     .xkk 0xF 0x18 .ldStVx,
     .xkk 0xF 0x1E .addIVx,
     .xkk 0xF 0x29 .ldF,
     .xkk 0xF 0x30 .ldHf,
     .xkk 0xF 0x33 .ldB,
     .xkk 0xF 0x55 .ldMemVx,
     .xkk 0xF 0x65 .ldVxMem,
     .xkk 0xF 0x75 .ldRVx,
     .xkk 0xF 0x85 .ldVxR,
     List.forall_mem_nil _⟩

/-- "Every word matching (w & mask) = match is that instruction" (R85). -/
theorem opcodeMap_decodes : ∀ r ∈ opcodeMap, r.Decodes := by
  simp only [opcodeMap, List.forall_mem_append]
  exact ⟨⟨⟨⟨opcodeMapSystem_decodes, opcodeMapControl_decodes⟩, opcodeMapAlu_decodes⟩, opcodeMapMixed_decodes⟩,
    opcodeMapF_decodes⟩

/-! ### Each instruction has a row -/

/-- The word of an instruction matches the row of the opcode map with its mnemonic. -/
theorem exists_row_of_encode : ∀ i : Instr,
    ∃ r ∈ opcodeMap, r.mnemonic = i.mnemonic ∧ r.covers (encode i) = true
  | .scd n => Laws.OpcodeRowOf.scd n
  | .cls => Laws.OpcodeRowOf.cls
  | .ret => Laws.OpcodeRowOf.ret
  | .scr => Laws.OpcodeRowOf.scr
  | .scl => Laws.OpcodeRowOf.scl
  | .exit => Laws.OpcodeRowOf.exit
  | .low => Laws.OpcodeRowOf.low
  | .high => Laws.OpcodeRowOf.high
  | .jp nnn => Laws.OpcodeRowOf.jp nnn
  | .call nnn => Laws.OpcodeRowOf.call nnn
  | .seImm x nn => Laws.OpcodeRowOf.seImm x nn
  | .sneImm x nn => Laws.OpcodeRowOf.sneImm x nn
  | .seReg x y => Laws.OpcodeRowOf.seReg x y
  | .ldImm x nn => Laws.OpcodeRowOf.ldImm x nn
  | .addImm x nn => Laws.OpcodeRowOf.addImm x nn
  | .ldReg x y => Laws.OpcodeRowOf.ldReg x y
  | .orReg x y => Laws.OpcodeRowOf.orReg x y
  | .andReg x y => Laws.OpcodeRowOf.andReg x y
  | .xorReg x y => Laws.OpcodeRowOf.xorReg x y
  | .addReg x y => Laws.OpcodeRowOf.addReg x y
  | .subReg x y => Laws.OpcodeRowOf.subReg x y
  | .shr x y => Laws.OpcodeRowOf.shr x y
  | .subn x y => Laws.OpcodeRowOf.subn x y
  | .shl x y => Laws.OpcodeRowOf.shl x y
  | .sneReg x y => Laws.OpcodeRowOf.sneReg x y
  | .ldI nnn => Laws.OpcodeRowOf.ldI nnn
  | .jpV0 nnn => Laws.OpcodeRowOf.jpV0 nnn
  | .rnd x nn => Laws.OpcodeRowOf.rnd x nn
  | .drw x y n => Laws.OpcodeRowOf.drw x y n
  | .skp x => Laws.OpcodeRowOf.skp x
  | .sknp x => Laws.OpcodeRowOf.sknp x
  | .ldVxDt x => Laws.OpcodeRowOf.ldVxDt x
  | .ldVxK x => Laws.OpcodeRowOf.ldVxK x
  | .ldDtVx x => Laws.OpcodeRowOf.ldDtVx x
  | .ldStVx x => Laws.OpcodeRowOf.ldStVx x
  | .addIVx x => Laws.OpcodeRowOf.addIVx x
  | .ldF x => Laws.OpcodeRowOf.ldF x
  | .ldHf x => Laws.OpcodeRowOf.ldHf x
  | .ldB x => Laws.OpcodeRowOf.ldB x
  | .ldMemVx x => Laws.OpcodeRowOf.ldMemVx x
  | .ldVxMem x => Laws.OpcodeRowOf.ldVxMem x
  | .ldRVx x => Laws.OpcodeRowOf.ldRVx x
  | .ldVxR x => Laws.OpcodeRowOf.ldVxR x

/-- A word that decodes matches a row of the opcode map. -/
theorem exists_row_of_decode {w : Word} {i : Instr} (h : decode w = some i) :
    ∃ r ∈ opcodeMap, w &&& r.mask = r.value := by
  obtain ⟨r, hr, -, hcovers⟩ := exists_row_of_encode i
  rw [decode_encodes w i h] at hcovers
  exact ⟨r, hr, eq_of_beq hcovers⟩

/-- Settles O2: each row is one instruction's format, and a word that decodes is its instruction's word, which has a
row. -/
theorem opcodeMapDecidesDecoding : Obligations.OpcodeMapDecidesDecoding := by
  intro w
  refine ⟨fun r hr => opcodeMap_decodes r hr w, fun hnone => ?_⟩
  refine Option.eq_none_iff_forall_ne_some.mpr fun i hi => ?_
  obtain ⟨r, hr, hmatch⟩ := exists_row_of_decode hi
  exact hnone r hr hmatch

end Sys2Proof
end

section
/-! One step of a running machine (spec/40_step.md): the fetched word, the fault of each check before the execution,
how an instruction leaves the status, and what the step port reports of it. -/

namespace Sys2Proof.Machine

/-! ### Fetch -/

/-- Settles O6: inside the fetchable range neither address of the fetch wraps, so they are `a` and `b`. -/
theorem fetchIsBigEndian : Obligations.FetchIsBigEndian := by
  intro s a b ⟨_, hle⟩ ha hb
  have hcode : (codeAddr s.pc).toNat = s.pc.toNat := codeAddr_toNat (by omega)
  have hfirst : codeAddr s.pc = a := BitVec.eq_of_toNat_eq (by omega)
  have hsecond : codeAddr s.pc + 1#12 = b := by
    apply BitVec.eq_of_toNat_eq
    rw [BitVec.toNat_add, BitVec.toNat_ofNat]
    omega
  rw [State.fetchWord, hsecond, hfirst, wordOfBytes_toNat]

/-! ### The three ways of a step of a running machine (R101, R103, R109) -/

section
variable {s : State} (hs : s.status = .running)
include hs

theorem step_of_running : step s = endStep (runInstr s) := by
  simp only [step, cycle, hs]

theorem step_of_not_fetchable (hf : ¬ s.fetchable) :
    step s = .next (State.consumeInput { s with status := .faulted (.pcOutOfRange s.pc) }) := by
  rw [step_of_running hs, runInstr, if_pos hf]
  rfl

theorem step_of_decode_none (hf : s.fetchable) (hd : decode s.fetchWord = none) :
    step s = .next (State.consumeInput { s with status := .faulted (.unknownInstruction s.fetchWord s.pc) }) := by
  rw [step_of_running hs, runInstr, if_neg (not_not.mpr hf), hd]
  rfl

theorem step_of_decode_some (hf : s.fetchable) {i : Instr} (hd : decode s.fetchWord = some i) :
    step s = endStep (exec i s) := by
  rw [step_of_running hs, runInstr, if_neg (not_not.mpr hf), hd]

end

/-- Settles O7: with pc on either side of the range the step is fault entry at the fetch. -/
theorem fetchOutsideRangeFaults : Obligations.FetchOutsideRangeFaults := by
  intro s hs hpc
  have hf : ¬ s.fetchable := fun ⟨hlow, hhigh⟩ => by omega
  exact ⟨_, step_of_not_fetchable hs hf, rfl⟩

/-- Settles O8: the step is fault entry at the decoder. -/
theorem unknownWordFaults : Obligations.UnknownWordFaults :=
  fun _ hs hf hd => ⟨_, step_of_decode_none hs hf hd, rfl⟩

/-! ### How an instruction leaves the status -/

/-- An answer at `s` that is fault entry at `s` (R211), or a next state with the status of `s`. -/
def FaultsOrKeepsStatus (s : State) (r : Result) : Prop :=
  (∃ f, r = raise f s) ∨ ∃ t, r = .next t ∧ t.status = s.status

section
variable {s : State}

theorem FaultsOrKeepsStatus.next {t : State} (h : t.status = s.status) : FaultsOrKeepsStatus s (.next t) :=
  .inr ⟨t, rfl, h⟩

theorem FaultsOrKeepsStatus.raise (f : Fault) : FaultsOrKeepsStatus s (raise f s) := .inl ⟨f, rfl⟩

theorem FaultsOrKeepsStatus.withRange {count : Nat} {body : Result} (h : FaultsOrKeepsStatus s body) :
    FaultsOrKeepsStatus s (s.withRange count body) := by
  rcases withRange_cases s count body with ⟨-, -, hfault⟩ | ⟨-, hbody⟩
  · exact .inl ⟨_, hfault⟩
  · rwa [hbody]

theorem FaultsOrKeepsStatus.withKey {x : Reg} {body : Bool → Result}
    (h : ∀ pressed, FaultsOrKeepsStatus s (body pressed)) : FaultsOrKeepsStatus s (s.withKey x body) := by
  rcases withKey_cases s x body with ⟨-, hfault⟩ | ⟨pressed, -, hbody⟩
  · exact .inl ⟨_, hfault⟩
  · rw [hbody]; exact h pressed

theorem FaultsOrKeepsStatus.withRpl {x : Reg} {body : Result} (h : FaultsOrKeepsStatus s body) :
    FaultsOrKeepsStatus s (s.withRpl x body) := by
  rcases withRpl_cases s x body with ⟨-, hfault⟩ | ⟨-, hbody⟩
  · exact .inl ⟨_, hfault⟩
  · rwa [hbody]

theorem FaultsOrKeepsStatus.withDigit {x : Reg} {limit : Nat} {body : Nat → Result}
    (h : ∀ d, FaultsOrKeepsStatus s (body d)) : FaultsOrKeepsStatus s (s.withDigit x limit body) := by
  rcases withDigit_cases s x limit body with ⟨-, hfault⟩ | ⟨-, hbody⟩
  · exact .inl ⟨_, hfault⟩
  · rw [hbody]; exact h _

end

theorem execCall_faultsOrKeepsStatus (nnn : Addr) (s : State) : FaultsOrKeepsStatus s (execCall nnn s) := by
  unfold execCall
  split
  case isTrue => exact .raise _
  case isFalse => exact .next rfl

theorem execRet_faultsOrKeepsStatus (s : State) : FaultsOrKeepsStatus s (execRet s) := by
  unfold execRet
  split
  case h_1 => exact .raise _
  case h_2 => exact .next rfl

/-- With or without a key FX0A leaves the status alone (R181). -/
theorem execLdVxK_faultsOrKeepsStatus (x : Reg) (s : State) : FaultsOrKeepsStatus s (execLdVxK x s) := by
  refine .next ?_
  split <;> rfl

/-- ONE INSTRUCTION and the status: any but 00FD faults or leaves the status alone. -/
theorem exec_faultsOrKeepsStatus {i : Instr} (hi : i ≠ .exit) (s : State) : FaultsOrKeepsStatus s (exec i s) := by
  cases i
  case exit => exact absurd rfl hi
  case call nnn => exact execCall_faultsOrKeepsStatus nnn s
  case ret => exact execRet_faultsOrKeepsStatus s
  case ldVxK x => exact execLdVxK_faultsOrKeepsStatus x s
  case skp => rw [exec, execSkp]; exact .withKey fun _ => .next rfl
  case sknp => rw [exec, execSknp]; exact .withKey fun _ => .next rfl
  case drw => exact .withRange (.next rfl)
  case ldF => rw [exec, execLdF]; exact .withDigit fun _ => .next rfl
  case ldHf => rw [exec, execLdHf]; exact .withDigit fun _ => .next rfl
  case ldB | ldMemVx => exact .withRange (.next (State.storeBytes_status ..))
  case ldVxMem => exact .withRange (.next rfl)
  case ldRVx | ldVxR => exact .withRpl (.next rfl)
  all_goals exact .next rfl

/-- An instruction answers a next state always, and from a running machine a halted one exactly if it is 00FD. -/
theorem exec_next_halted_iff (i : Instr) {s : State} (hs : s.status = .running) :
    ∃ t, exec i s = .next t ∧ (t.status = .halted ↔ i = .exit) := by
  by_cases hi : i = .exit
  case pos =>
    subst hi
    exact ⟨_, rfl, iff_of_true rfl rfl⟩
  case neg =>
    rcases exec_faultsOrKeepsStatus hi s with ⟨f, hfault⟩ | ⟨t, ht, hstatus⟩
    · exact ⟨_, hfault, iff_of_false (by simp) hi⟩
    · exact ⟨t, ht, iff_of_false (by simp [hstatus, hs]) hi⟩

/-- A step of a running machine answers a next state always, and a halted one exactly if it runs 00FD. -/
theorem step_next_halted_iff {s : State} (hs : s.status = .running) :
    ∃ t, step s = .next t ∧ (t.status = .halted ↔ s.fetchable ∧ decode s.fetchWord = some .exit) := by
  by_cases hf : s.fetchable
  case neg => exact ⟨_, step_of_not_fetchable hs hf, iff_of_false (by simp) fun ⟨h, _⟩ => hf h⟩
  case pos =>
    cases hd : decode s.fetchWord with
    | none => exact ⟨_, step_of_decode_none hs hf hd, by simp⟩
    | some i =>
      obtain ⟨t, ht, hhalted⟩ := exec_next_halted_iff i hs
      refine ⟨t.consumeInput, by rw [step_of_decode_some hs hf hd, ht]; rfl, ?_⟩
      rw [and_iff_right hf, Option.some_inj]
      exact hhalted

/-! ### The step port (R100, R108) -/

@[simp] theorem State.offer_toRecord (s : State) (input : StepInput) : (s.offer input).toRecord = s.toRecord := by
  unfold State.offer
  split <;> rfl

@[simp] theorem State.offer_cfg (s : State) (input : StepInput) : (s.offer input).cfg = s.cfg := by
  unfold State.offer
  split <;> rfl

@[simp] theorem State.offer_fetchWord (s : State) (input : StepInput) : (s.offer input).fetchWord = s.fetchWord := by
  simp only [State.fetchWord, State.readByte, State.offer_toRecord, State.offer_cfg]

theorem State.result_eq_halted_iff (s : State) : s.result = .halted ↔ s.status = .halted := by
  unfold State.result
  cases s.status <;> simp

theorem State.result_eq_fault_iff (s : State) (f : Fault) : s.result = .fault f ↔ s.status = .faulted f := by
  unfold State.result
  cases s.status <;> simp

theorem State.result_eq_continues_iff (s : State) : s.result = .continues ↔ s.status = .running := by
  unfold State.result
  cases s.status <;> simp

/-- Settles O10: the step of a running machine answers a next state, whose status the result is read from. -/
theorem stepResultTellsHowTheRunStands : Obligations.StepResultTellsHowTheRunStands := by
  intro s input hs
  obtain ⟨t, ht, hhalted⟩ := step_next_halted_iff (s := s.offer input) (by rw [State.offer_toRecord, hs])
  rw [State.offer_fetchWord, State.fetchable, State.offer_toRecord] at hhalted
  have hport : portStep input s = (t, t.result) := by simp only [portStep, ht]
  rw [hport]
  exact ⟨t.result_eq_halted_iff.trans hhalted, t.result_eq_fault_iff, t.result_eq_continues_iff⟩

end Sys2Proof.Machine
end

section
/-! Jumps, calls and returns (spec/41_jump_call.md): what each answers, per case of its stack check, and how the step
after a jump out of the fetchable range ends. -/

namespace Sys2Proof.Machine

open Statements

/-! ### The targets -/

theorem targetNNN_toNat (nnn : Addr) : (targetNNN nnn).toNat = nnn.toNat :=
  BitVec.toNat_setWidth_of_le (by decide)

/-- The sum of R123 stays inside 16 bits, so it is the plain sum. -/
theorem targetV0_toNat (s : State) (nnn : Addr) : (targetV0 s nnn).toNat = nnn.toNat + (s.getV 0#4).toNat := by
  have hnnn := nnn.isLt
  have hV0 := (s.getV 0#4).isLt
  rw [targetV0, BitVec.toNat_add, BitVec.toNat_setWidth_of_le (by decide), BitVec.toNat_setWidth_of_le (by decide)]
  omega

/-- The bound of R123, reached at NNN = 0xFFF and V0 = 0xFF. -/
theorem targetV0_le (s : State) (nnn : Addr) : (targetV0 s nnn).toNat ≤ 0x10FE := by
  have hnnn := nnn.isLt
  have hV0 := (s.getV 0#4).isLt
  rw [targetV0_toNat]
  omega

/-- `NNN < 0x200 or NNN = 0xFFF` (R120) is a target outside the fetchable range. -/
theorem targetNNN_out_of_range {nnn : Addr} (h : nnn.toNat < 0x200 ∨ nnn = 0xFFF#12) :
    (targetNNN nnn).toNat < 0x200 ∨ (targetNNN nnn).toNat > 0xFFE := by
  rw [targetNNN_toNat]
  rcases h with hlow | rfl
  · exact .inl hlow
  · exact .inr (by decide)

/-- A running machine sent outside the fetchable range raises PcOutOfRange at its next step. -/
theorem jumpTo_leavesRange {s : State} {a : Word} (hs : s.status = .running)
    (ha : a.toNat < 0x200 ∨ a.toNat > 0xFFE) : NextStepLeavesRange (s.jumpTo a) :=
  fetchOutsideRangeFaults (s.jumpTo a) hs ha

/-! ### The stack checks of CALL and RET (R213, R214) -/

theorem execCall_of_room {s : State} (nnn : Addr) (h : s.sp < s.cfg.stackCapacity.toNat) :
    execCall nnn s = .next ((s.push (s.pc + 2#16)).jumpTo (targetNNN nnn)) :=
  if_neg (Nat.not_le.mpr h)

theorem execCall_of_full {s : State} (nnn : Addr) (h : s.sp = s.cfg.stackCapacity.toNat) :
    execCall nnn s = raise (.stackOverflow s.pc) s :=
  if_pos h.ge

theorem execRet_of_top {s : State} {below : List Word} {a : Word} (h : s.stack = below ++ [a]) :
    execRet s = .next (s.pop.jumpTo a) := by
  rw [execRet, h, List.getLast?_concat]

theorem execRet_of_empty {s : State} (h : s.sp = 0) : execRet s = raise (.stackUnderflow s.pc) s := by
  rw [execRet, List.eq_nil_of_length_eq_zero h, List.getLast?_nil]

/-! ### The four instructions -/

/-- Settles O23: the target is the literal NNN, and the next step checks its range at the fetch. -/
theorem jumpGoesToNNN : Obligations.JumpGoesToNNN := fun nnn s =>
  ⟨decode_encode (.jp nnn), s.jumpTo (targetNNN nnn), rfl, targetNNN_toNat nnn, rfl, s.readByte_jumpTo _,
    fun hs hnnn => jumpTo_leavesRange hs (targetNNN_out_of_range hnnn)⟩

/-- Settles O24. The sum is not masked, so the target can lie on either side of the fetchable range. -/
theorem jumpWithOffsetAddsV0 : Obligations.JumpWithOffsetAddsV0 := fun nnn s =>
  ⟨decode_encode (.jpV0 nnn), s.jumpTo (targetV0 s nnn), rfl, targetV0_toNat s nnn, rfl, s.readByte_jumpTo _,
    targetV0_le s nnn, jumpTo_leavesRange⟩

/-- Settles O25: one clause per outcome of the stack check. -/
theorem callPushesTheReturnAddress : Obligations.CallPushesTheReturnAddress := by
  intro nnn s _
  refine ⟨decode_encode (.call nnn), fun hroom => ?_, execCall_of_full nnn⟩
  have hsp : (s.push (s.pc + 2#16)).sp = s.sp + 1 := List.length_append
  exact ⟨_, execCall_of_room nnn hroom, targetNNN_toNat nnn, rfl, hsp, rfl, fun _ => rfl⟩

/-- Settles O26: one clause per outcome of the stack check. -/
theorem returnPopsTheReturnAddress : Obligations.ReturnPopsTheReturnAddress := by
  refine ⟨decode_encode .ret, fun s below a htop => ?_, fun s => execRet_of_empty⟩
  have hstack : s.pop.stack = below := by rw [State.pop_stack, htop, List.dropLast_concat]
  have hsp : s.pop.sp + 1 = s.sp := by rw [State.sp, State.sp, hstack, htop, List.length_append, List.length_singleton]
  exact ⟨_, execRet_of_top htop, rfl, hstack, hsp, rfl, fun _ => rfl⟩

end Sys2Proof.Machine
end

section
/-! The conditional skips (spec/42_skips.md): which condition each tests, and the words next to theirs that decode to
nothing. -/

namespace Sys2Proof

/-! ### The register skips' words with another last nibble (R86) -/

/-- Among the words of major opcodes 5 and 9 only 5XY0 and 9XY0 are instructions. -/
theorem decode_xyn_eq_none {a n : Nibble} (x y : Reg) (ha : a = 0x5#4 ∨ a = 0x9#4) (hn : n ≠ 0#4) :
    decode (a ++ x ++ y ++ n) = none := by
  rw [decode, fieldMajor_xyn, fieldN_xyn]
  rcases ha with rfl | rfl
  · exact if_neg hn
  · exact if_neg hn

end Sys2Proof

namespace Sys2Proof.Machine

open Statements

/-! ### What a skip answers (R104, R136) -/

/-- An answer at `s` by which exactly the pc moves: by 4 bytes where `p` holds, else by 2. -/
def SkipsWhen (p : Prop) [Decidable p] (s : State) (r : Result) : Prop :=
  ∃ t, r = .next t ∧ t = { s with pc := if p then s.pc + 4#16 else s.pc + 2#16 } ∧ SameMemory s t

/-- A skip on a tested flag is a skip on the proposition the flag decides. -/
theorem skipIf_skipsWhen (s : State) {c : Bool} {p : Prop} [Decidable p] (hc : c = true ↔ p) :
    SkipsWhen p s (.next (s.skipIf c)) := by
  refine ⟨s.skipIf c, rfl, ?_, s.readByte_skipIf c⟩
  rw [State.skipIf, State.jumpTo, if_congr hc rfl rfl]

/-- Settles O28: the two instructions test VX and NN for equality and for difference. -/
theorem skipsOnImmediate : Obligations.SkipsOnImmediate := fun x nn s =>
  ⟨decode_encode (.seImm x nn), decode_encode (.sneImm x nn), skipIf_skipsWhen s beq_iff_eq,
    skipIf_skipsWhen s bne_iff_ne⟩

/-- Settles O29: the two instructions test VX and VY for equality and for difference. -/
theorem skipsOnRegisters : Obligations.SkipsOnRegisters := fun x y s =>
  ⟨decode_encode (.seReg x y), decode_encode (.sneReg x y),
    fun _ hn => ⟨decode_xyn_eq_none x y (.inl rfl) hn, decode_xyn_eq_none x y (.inr rfl) hn⟩,
    skipIf_skipsWhen s beq_iff_eq, skipIf_skipsWhen s bne_iff_ne⟩

/-! ### The key check of SKP and SKNP (R217) -/

section
variable {s : State} {x : Reg} {pressed : Bool}

theorem execSkp_of_key (h : s.key[(s.getV x).toNat]? = some pressed) : execSkp x s = .next (s.skipIf pressed) :=
  withKey_ok _ h

theorem execSknp_of_key (h : s.key[(s.getV x).toNat]? = some pressed) : execSknp x s = .next (s.skipIf !pressed) :=
  withKey_ok _ h

theorem execSkp_of_no_key (h : (s.getV x).toNat > 0xF) :
    execSkp x s = .next { s with status := .faulted (.keyIndexOutOfRange (s.getV x)) } :=
  withKey_fault _ h

theorem execSknp_of_no_key (h : (s.getV x).toNat > 0xF) :
    execSknp x s = .next { s with status := .faulted (.keyIndexOutOfRange (s.getV x)) } :=
  withKey_fault _ h

end

/-- Settles O30: one clause per outcome of the key check. -/
theorem skipsOnKeys : Obligations.SkipsOnKeys := by
  intro x s
  refine ⟨decode_encode (.skp x), decode_encode (.sknp x), fun pressed hkey => ⟨?skp, ?sknp⟩,
    fun hx => ⟨execSkp_of_no_key hx, execSknp_of_no_key hx⟩⟩
  case skp =>
    rw [exec, execSkp_of_key hkey]
    exact skipIf_skipsWhen s Iff.rfl
  case sknp =>
    rw [exec, execSknp_of_key hkey]
    exact skipIf_skipsWhen s (Bool.not_eq_true' pressed).to_iff

end Sys2Proof.Machine
end

section
/-! Register loads, ALU and random (spec/43_alu.md): what an instruction leaves unchanged that writes one register, or a
register and the flag, and advances; and the values the sums, differences and shifts give. -/

namespace Sys2Proof.Machine

open Statements

/-! ### Writing registers and advancing (R24, R104) -/

/-- `t` is `s` after the automatic advance, with no change but to the registers `written`. -/
def AdvancesWriting (written : List Reg) (s t : State) : Prop :=
  OtherRegs s t written ∧ t = { s with V := t.V, pc := s.pc + 2#16 } ∧ SameMemory s t

theorem setV_advancesWriting (s : State) (x : Reg) (v : Byte) : AdvancesWriting [x] s (s.setV x v).advance := by
  refine ⟨fun z hz => ?_, rfl, s.readByte_setV x v⟩
  rw [State.getV_advance, State.getV_setV, if_neg (List.ne_of_not_mem_cons hz)]

theorem setWithFlag_advancesWriting (s : State) (x : Reg) (r : Byte × Bool) :
    AdvancesWriting [x, 0xF#4] s (s.setWithFlag x r).advance := by
  refine ⟨fun z hz => ?_, rfl, s.readByte_setWithFlag x r⟩
  obtain ⟨hzx, hzF⟩ : z ≠ x ∧ z ≠ 0xF#4 := by simpa using hz
  rw [State.getV_advance, State.getV_setWithFlag, if_neg hzF, if_neg hzx]

theorem getV_setV_advance_same (s : State) (x : Reg) (v : Byte) : (s.setV x v).advance.getV x = v := by
  rw [State.getV_advance, State.getV_setV, if_pos rfl]

theorem getV_setWithFlag_advance_same (s : State) {x : Reg} (r : Byte × Bool) (hx : x ≠ 0xF#4) :
    (s.setWithFlag x r).advance.getV x = r.1 := by
  rw [State.getV_advance, State.getV_setWithFlag, if_neg hx, if_pos rfl]

/-- The flag is written last, so VF holds it even where VF is the destination. -/
theorem getV_setWithFlag_advance_flag (s : State) (x : Reg) (r : Byte × Bool) :
    (s.setWithFlag x r).advance.getV 0xF#4 = flagByte r.2 := by
  rw [State.getV_advance, State.getV_setWithFlag, if_pos rfl]

/-! ### The values and the flags (R147, R148, R150, R152) -/

theorem flagByte_of_iff {f : Bool} {p : Prop} [Decidable p] (hf : f = true ↔ p) :
    flagByte f = if p then 1#8 else 0#8 := if_congr hf rfl rfl

theorem flagByte_toNat (f : Bool) : (flagByte f).toNat = f.toNat := by
  cases f <;> rfl

theorem addCarry_fst_toNat (a b : Byte) : (addCarry a b).1.toNat = (a.toNat + b.toNat) % 256 :=
  BitVec.toNat_ofNat ..

theorem addCarry_snd_iff (a b : Byte) : (addCarry a b).2 = true ↔ a.toNat + b.toNat ≥ 0x100 :=
  decide_eq_true_iff

theorem shiftRight1_fst_toNat (a : Byte) : (shiftRight1 a).1.toNat = a.toNat / 2 := by
  rw [shiftRight1, BitVec.toNat_ushiftRight, Nat.shiftRight_one]

/-- The bit shifted out to the right is the parity. -/
theorem shiftRight1_snd_toNat (a : Byte) : (shiftRight1 a).2.toNat = a.toNat % 2 := by
  rw [shiftRight1, BitVec.getLsbD, Nat.toNat_testBit, pow_zero, Nat.div_one]

theorem shiftLeft1_fst_toNat (a : Byte) : (shiftLeft1 a).1.toNat = a.toNat * 2 % 256 := by
  rw [shiftLeft1, BitVec.toNat_shiftLeft, Nat.shiftLeft_eq, pow_one]

/-- The bit shifted out to the left is the half of the byte range that `a` lies in. -/
theorem shiftLeft1_snd_toNat (a : Byte) : (shiftLeft1 a).2.toNat = a.toNat / 128 := by
  have ha : a.toNat / 128 < 2 := by have := a.isLt; omega
  rw [shiftLeft1, BitVec.getLsbD, Nat.toNat_testBit]
  exact Nat.mod_eq_of_lt ha

/-! ### The obligations -/

/-- Settles O35: both instructions are the subtraction law of R147, with VX and VY in either order. -/
theorem subtractionsStoreTheAbsoluteDifference : Obligations.SubtractionsStoreTheAbsoluteDifference := by
  intro x y s
  obtain ⟨hsub, hsubFlag⟩ := absDiff_spec (s.getV x) (s.getV y)
  obtain ⟨hsubn, hsubnFlag⟩ := absDiff_spec (s.getV y) (s.getV x)
  refine ⟨decode_encode (.subReg x y), decode_encode (.subn x y),
    ⟨_, rfl, fun hx => ?_, ?_, setWithFlag_advancesWriting s x _⟩,
    ⟨_, rfl, fun hx => ?_, ?_, setWithFlag_advancesWriting s x _⟩⟩
  · rw [getV_setWithFlag_advance_same s _ hx, hsub]
  · rw [getV_setWithFlag_advance_flag, flagByte_of_iff hsubFlag]
  · rw [getV_setWithFlag_advance_same s _ hx, hsubn]
  · rw [getV_setWithFlag_advance_flag, flagByte_of_iff hsubnFlag]

/-- Settles O31: each load writes its one value and nothing else, VF included. -/
theorem registerLoads : Obligations.RegisterLoads := fun x y nn s =>
  ⟨decode_encode (.ldImm x nn), decode_encode (.ldReg x y),
    ⟨_, rfl, getV_setV_advance_same s x nn, setV_advancesWriting s x nn⟩,
    ⟨_, rfl, getV_setV_advance_same s x (s.getV y), setV_advancesWriting s x (s.getV y)⟩⟩

/-- Settles O32: the instruction stores the sum of `addCarry` and drops its carry. -/
theorem addImmediateSetsNoFlag : Obligations.AddImmediateSetsNoFlag := by
  intro x nn s
  refine ⟨decode_encode (.addImm x nn), _, rfl, ?_, setV_advancesWriting s x _⟩
  rw [getV_setV_advance_same, addCarry_fst_toNat]

/-- Settles O33: each bit of the stored byte is the operation on the operands' bits. -/
theorem bitwiseOperations : Obligations.BitwiseOperations := by
  intro x y s
  refine ⟨decode_encode (.orReg x y), decode_encode (.andReg x y), decode_encode (.xorReg x y),
    ⟨_, rfl, fun b => ?or, setV_advancesWriting s x _⟩, ⟨_, rfl, fun b => ?and, setV_advancesWriting s x _⟩,
    ⟨_, rfl, fun b => ?xor, setV_advancesWriting s x _⟩⟩
  case or => rw [getV_setV_advance_same, BitVec.getLsbD_or]
  case and => rw [getV_setV_advance_same, BitVec.getLsbD_and]
  case xor => rw [getV_setV_advance_same, BitVec.getLsbD_xor]

/-- Settles O34: the sum and the carry are `addCarry`'s, the carry written last. -/
theorem addSetsCarry : Obligations.AddSetsCarry := by
  intro x y s
  refine ⟨decode_encode (.addReg x y), _, rfl, fun hx => ?_, ?_, setWithFlag_advancesWriting s x _⟩
  · rw [getV_setWithFlag_advance_same s _ hx, addCarry_fst_toNat]
  · rw [getV_setWithFlag_advance_flag, flagByte_of_iff (addCarry_snd_iff _ _)]

/-- Settles O36: the two shifts read VX alone, and the flag is the bit they lose. -/
theorem shiftsPutTheLostBitInVF : Obligations.ShiftsPutTheLostBitInVF := by
  intro x y s
  refine ⟨decode_encode (.shr x y), decode_encode (.shl x y),
    ⟨_, rfl, fun hx => ?_, ?_, setWithFlag_advancesWriting s x _⟩,
    ⟨_, rfl, fun hx => ?_, ?_, setWithFlag_advancesWriting s x _⟩⟩
  · rw [getV_setWithFlag_advance_same s _ hx, shiftRight1_fst_toNat]
  · rw [getV_setWithFlag_advance_flag, flagByte_toNat, shiftRight1_snd_toNat]
  · rw [getV_setWithFlag_advance_same s _ hx, shiftLeft1_fst_toNat]
  · rw [getV_setWithFlag_advance_flag, flagByte_toNat, shiftLeft1_snd_toNat]

/-- Settles O37: the value written is the draw masked, and a byte the driver lines up is that draw. -/
theorem randomIsTheDrawMasked : Obligations.RandomIsTheDrawMasked := by
  intro x nn r key rest s
  refine ⟨decode_encode (.rnd x nn),
    ⟨_, rfl, getV_setV_advance_same s x _, setV_advancesWriting s x _⟩, _, rfl, ?_⟩
  rw [getV_setV_advance_same, input_cons]

end Sys2Proof.Machine
end

section
/-! Draw, clear, scroll and display mode (spec/44_display.md): how the blitter's sprite geometry reads the bytes at I,
what a draw does to each cell and to VF, and what the scrolls and the clears leave. -/

namespace Sys2Proof.Machine

open Statements

/-! ### The bytes of a sprite (R161, R163) -/

theorem nibble_toNat_pos {n : Nibble} (hn : n ≠ 0#4) : n.toNat ≥ 1 :=
  Nat.one_le_iff_ne_zero.mpr fun h => hn (BitVec.eq_of_toNat_eq h)

section
variable (m : Mode) {n : Nibble} (hn : n ≠ 0#4)
include hn

theorem spriteBytes_of_rows : spriteBytes m n = n.toNat := if_pos (nibble_toNat_pos hn)

theorem spriteHeight_of_rows : spriteHeight m n = n.toNat := if_pos (nibble_toNat_pos hn)

theorem spriteWidth_of_rows : spriteWidth n = 8 := if_pos (nibble_toNat_pos hn)

theorem spriteSize_of_rows : spriteSize m n = (8, n.toNat) := if_neg hn

end

/-- A sprite inside memory passes the address check, and so does the empty one at any I. -/
theorem spriteBytes_fit {s : State} {n : Nibble} (h : spriteInMemory s n) :
    spriteBytes s.mode n = 0 ∨ s.I.toNat + spriteBytes s.mode n ≤ 0x1000 := by
  obtain ⟨hrows, hbig⟩ := h
  by_cases hn : n = 0#4
  case pos =>
    subst hn
    cases hm : s.mode with
    | standard => exact .inl rfl
    | extended =>
      have hlast := hbig rfl hm
      exact .inr (show s.I.toNat + 32 ≤ 0x1000 by omega)
  case neg =>
    have hlast := hrows hn
    rw [spriteBytes_of_rows s.mode hn]
    omega

/-! ### The pixels of a sprite (R160, R161) -/

/-- The blitter's bit of a sprite pixel is the one that R161 reads from the bytes at I. -/
theorem spriteBit_eq_spriteBitAt (s : State) {n : Nibble} {c : Nat} (r : Nat) (hc : c < spriteWidth n) :
    s.spriteBit n c r = spriteBitAt s n c r := by
  by_cases hn : n = 0#4
  case pos =>
    subst hn
    have hc16 : c < 16 := hc
    change (wordOfBytes (s.readByte (s.dataAddr (2 * r))) (s.readByte (s.dataAddr (2 * r + 1)))).getMsbD c = _
    rw [BitVec.getMsbD, decide_eq_true hc16, Bool.true_and, BitVec.getLsbD, wordOfBytes_toNat]
    rfl
  case neg =>
    have hc8 : c < 8 := by rwa [spriteWidth_of_rows hn] at hc
    rw [State.spriteBit, if_pos (nibble_toNat_pos hn), BitVec.getMsbD, decide_eq_true hc8, Bool.true_and,
      spriteBitAt, if_neg hn]
    rfl

/-- The size of R161 and the blitter's geometry hold the same positions. In Standard mode a sprite of N = 0 has no
column in the one and 16 in the other, but no row in either. -/
theorem inside_spriteSize_iff (m : Mode) (n : Nibble) (c r : Nat) :
    (c < (spriteSize m n).1 ∧ r < (spriteSize m n).2) ↔ (c < spriteWidth n ∧ r < spriteHeight m n) := by
  by_cases hn : n = 0#4
  case pos =>
    subst hn
    cases m with
    | standard => exact iff_of_false (fun h => Nat.not_lt_zero r h.2) (fun h => Nat.not_lt_zero r h.2)
    | extended => exact Iff.rfl
  case neg =>
    rw [spriteSize_of_rows m hn, spriteWidth_of_rows hn, spriteHeight_of_rows m hn]

/-- The positions that the sprite covers are those that the blitter draws, before clipping. -/
theorem spriteCovers_iff (s : State) (x y : Reg) (n : Nibble) (px py : Nat) :
    spriteCovers s x y n px py ↔ ∃ p ∈ s.spritePixels n, px = s.originX x + p.1 ∧ py = s.originY y + p.2 := by
  constructor
  · rintro ⟨c, r, hc, hr, hpx, hpy, hbit⟩
    obtain ⟨hw, hh⟩ := (inside_spriteSize_iff s.mode n c r).mp ⟨hc, hr⟩
    rw [← spriteBit_eq_spriteBitAt s r hw] at hbit
    exact ⟨(c, r), (mem_spritePixels s n c r).mpr ⟨hw, hh, hbit⟩, hpx, hpy⟩
  · rintro ⟨⟨c, r⟩, hp, hpx, hpy⟩
    obtain ⟨hw, hh, hbit⟩ := (mem_spritePixels s n c r).mp hp
    obtain ⟨hc, hr⟩ := (inside_spriteSize_iff s.mode n c r).mpr ⟨hw, hh⟩
    rw [spriteBit_eq_spriteBitAt s r hw] at hbit
    exact ⟨c, r, hc, hr, hpx, hpy, hbit⟩

/-! ### What a draw does to the framebuffer (R162) -/

/-- The framebuffer after the draw of `DRW VX, VY, N`, and whether it collides. -/
def State.draw (s : State) (x y : Reg) (n : Nibble) : Fb × Bool := s.blit (s.originX x) (s.originY y) n

section
variable (s : State) (x y : Reg) (n : Nibble)

theorem draw_cell_of_covers {px py : Nat} (hx : px < s.mode.width) (hy : py < s.mode.height)
    (h : spriteCovers s x y n px py) :
    Fb.cell (s.draw x y n).1 (s.mode.cellAt px py) = !s.pixel px py :=
  ((blit_spec s _ _ n).1 px py hx hy).1 ((spriteCovers_iff s x y n px py).mp h)

theorem draw_cell_of_not_covers {px py : Nat} (hx : px < s.mode.width) (hy : py < s.mode.height)
    (h : ¬ spriteCovers s x y n px py) : Fb.cell (s.draw x y n).1 (s.mode.cellAt px py) = s.pixel px py :=
  ((blit_spec s _ _ n).1 px py hx hy).2 (mt (spriteCovers_iff s x y n px py).mpr h)

theorem draw_cell_off {j : Nat} (hj : s.mode.width * s.mode.height ≤ j) :
    Fb.cell (s.draw x y n).1 j = Fb.cell s.fb j :=
  (blit_spec s _ _ n).2.1 j hj

theorem draw_collides_iff_covers : (s.draw x y n).2 = true ↔
    ∃ px py, px < s.mode.width ∧ py < s.mode.height ∧ spriteCovers s x y n px py ∧ s.pixel px py = true := by
  simp only [spriteCovers_iff]
  exact (blit_spec s _ _ n).2.2

/-- The collision of R162 in terms of the two screens alone: some position went from 1 to 0. -/
theorem draw_collides_iff_clears : (s.draw x y n).2 = true ↔
    ∃ px py, px < s.mode.width ∧ py < s.mode.height ∧ s.pixel px py = true ∧
      Fb.cell (s.draw x y n).1 (s.mode.cellAt px py) = false := by
  rw [draw_collides_iff_covers]
  refine exists₂_congr fun px py => and_congr_right fun hx => and_congr_right fun hy => ?_
  by_cases h : spriteCovers s x y n px py
  · simp [draw_cell_of_covers s x y n hx hy h, h]
  · simp [draw_cell_of_not_covers s x y n hx hy h, h]

end

/-! ### The draw instruction (R163) -/

section
variable {s : State} {n : Nibble} (x y : Reg)

theorem execDrw_of_inMemory (h : spriteInMemory s n) :
    execDrw x y n s = .next (s.afterDraw (s.draw x y n)).advance :=
  withRange_ok _ (spriteBytes_fit h)

theorem execDrw_of_rows_beyond (hn : n ≠ 0#4) (h : s.I.toNat + n.toNat - 1 > 0xFFF) : execDrw x y n s =
    .next { s with status := .faulted (.memoryOutOfRange (BitVec.ofNat 16 (s.I.toNat + n.toNat - 1))) } := by
  have hpos := nibble_toNat_pos hn
  rw [execDrw, spriteBytes_of_rows s.mode hn]
  exact withRange_fault _ hpos (by omega)

theorem execDrw_of_big_beyond (hm : s.mode = .extended) (h : s.I.toNat + 31 > 0xFFF) : execDrw x y 0#4 s =
    .next { s with status := .faulted (.memoryOutOfRange (BitVec.ofNat 16 (s.I.toNat + 31))) } := by
  rw [execDrw, show spriteBytes s.mode 0#4 = 32 by rw [hm]; rfl]
  exact withRange_fault _ (by decide) (by omega)

end

theorem afterDraw_otherRegs (s : State) (r : Fb × Bool) : OtherRegs s (s.afterDraw r).advance [0xF#4] := by
  intro z hz
  rw [State.getV_advance, State.getV_afterDraw, if_neg (List.ne_of_not_mem_cons hz)]

theorem getV_afterDraw_advance_flag (s : State) (r : Fb × Bool) :
    (s.afterDraw r).advance.getV 0xF#4 = flagByte r.2 := by
  rw [State.getV_advance, State.getV_afterDraw, if_pos rfl]

/-- Settles O38: the address check passes or faults by where the sprite's last byte lies, and a draw that it lets pass
flips exactly the covered cells of the screen, so that it collides iff it clears one. -/
theorem drawXorsTheClippedSprite : Obligations.DrawXorsTheClippedSprite := by
  intro x y n s
  refine ⟨decode_encode (.drw x y n), fun h => ?draws, execDrw_of_rows_beyond x y,
    fun hn => hn ▸ execDrw_of_big_beyond x y⟩
  case draws =>
    refine ⟨_, execDrw_of_inMemory x y h,
      fun px py hx hy => ⟨draw_cell_of_covers s x y n hx hy, draw_cell_of_not_covers s x y n hx hy⟩,
      fun j => draw_cell_off s x y n, fun hclears => ?_, fun hkeeps => ?_, afterDraw_otherRegs s _, rfl,
      s.readByte_afterDraw (s.draw x y n)⟩
    · rw [getV_afterDraw_advance_flag, (draw_collides_iff_clears s x y n).mpr hclears]
      rfl
    · rw [getV_afterDraw_advance_flag, Bool.eq_false_of_not_eq_true (mt (draw_collides_iff_clears s x y n).mp hkeeps)]
      rfl

/-! ### Scrolls, clears and mode switches (R164 to R170) -/

/-- Settles O41: the rows that the scroll replaces are the old rows, N higher up. -/
theorem scrollDownMovesRows : Obligations.ScrollDownMovesRows := fun n s =>
  ⟨decode_encode (.scd n), _, rfl, fun _ _ => scrollDown_cell s.mode n.toNat s.fb,
    fun _ => Fb.cell_setScreen_off s.mode _ s.fb, rfl, s.readByte_setFb (scrollDown s.mode n.toNat s.fb)⟩

/-- Settles O42: each row is replaced by itself shifted by 4, so that nothing spills into another row. -/
theorem scrollSidewaysMovesColumns : Obligations.ScrollSidewaysMovesColumns :=
  ⟨decode_encode .scr, decode_encode .scl, fun s =>
    ⟨⟨_, rfl, fun _ _ => scrollRight4_cell s.mode s.fb, fun _ => Fb.cell_setScreen_off s.mode _ s.fb, rfl,
        s.readByte_setFb (scrollRight4 s.mode s.fb)⟩,
      ⟨_, rfl, fun _ _ => scrollLeft4_cell s.mode s.fb, fun _ => Fb.cell_setScreen_off s.mode _ s.fb, rfl,
        s.readByte_setFb (scrollLeft4 s.mode s.fb)⟩⟩⟩

/-- Settles O40: the framebuffer becomes the blank one whatever the mode. -/
theorem clearZeroesEveryCell : Obligations.ClearZeroesEveryCell :=
  ⟨decode_encode .cls, fun s => ⟨_, rfl, fun j _ => Fb.cell_blank j, rfl, s.readByte_setFb blankFb⟩⟩

/-- Settles O43: a mode switch does not look at the mode that it replaces. -/
theorem modeSwitchClearsTheScreen : Obligations.ModeSwitchClearsTheScreen :=
  ⟨decode_encode .low, decode_encode .high, fun s =>
    ⟨⟨_, rfl, rfl, rfl, rfl, fun j _ => Fb.cell_blank j, rfl, s.readByte_switchMode .standard⟩,
      ⟨_, rfl, rfl, rfl, rfl, fun j _ => Fb.cell_blank j, rfl, s.readByte_switchMode .extended⟩⟩⟩

end Sys2Proof.Machine
end

section
/-! Timer and key instructions (spec/45_timer_key.md): the two outcomes of the key read, and what the step port answers
when the instruction it runs answers a next state. -/

namespace Sys2Proof.Machine

open Statements

/-! ### The timer moves (R180, R182, R183) -/

/-- Settles O44: `LD VX, DT` writes one register, the other two write one timer. -/
theorem timerMoves : Obligations.TimerMoves := fun x s =>
  ⟨decode_encode (.ldVxDt x), decode_encode (.ldDtVx x), decode_encode (.ldStVx x),
    ⟨_, rfl, getV_setV_advance_same s x s.DT, setV_advancesWriting s x s.DT⟩,
    ⟨_, rfl, rfl, fun _ => rfl⟩, ⟨_, rfl, rfl, fun _ => rfl⟩⟩

/-! ### The step port on a running machine (R100, R106) -/

section
variable {s : State} (hs : s.status = .running) (input : StepInput)
include hs

theorem State.offer_of_running : s.offer input = { s with inputs := input :: s.inputs } := by
  rw [State.offer, hs]

theorem State.input_offer_of_running : (s.offer input).input = input := by
  rw [State.offer_of_running hs, input_cons]

/-- The step uses up what the port offered it; only the count of steps tells that it ran. -/
theorem State.consumeInput_offer_of_running : (s.offer input).consumeInput = { s with turn := s.turn + 1 } := by
  rw [State.offer_of_running hs]
  rfl

theorem portStep_of_exec_next (hf : s.fetchable) {i : Instr} (hd : decode s.fetchWord = some i) {t : State}
    (ht : exec i (s.offer input) = .next t) : portStep input s = (t.consumeInput, t.result) := by
  have hrun : (s.offer input).status = .running := by rw [State.offer_toRecord, hs]
  have hfetch : (s.offer input).fetchable := by rwa [State.fetchable, State.offer_toRecord]
  have hstep : step (s.offer input) = .next t.consumeInput := by
    rw [step_of_decode_some hrun hfetch ((State.offer_fetchWord s input).symm ▸ hd), ht, endStep]
  rw [portStep, hstep]
  rfl

end

/-! ### The key read (R181) -/

theorem keyValue_toNat (k : Nibble) : (keyValue k).toNat = k.toNat :=
  BitVec.toNat_setWidth_of_le (by decide)

theorem execLdVxK_of_no_key {s : State} (x : Reg) (h : s.input.key = none) : execLdVxK x s = .next s := by
  rw [execLdVxK, h]
  rfl

theorem execLdVxK_of_key {s : State} {k : Nibble} (x : Reg) (h : s.input.key = some k) :
    execLdVxK x s = .next (s.setV x (keyValue k)).advance := by
  rw [execLdVxK, h]

/-- Settles O45: without a key the read answers the state it was given, which at the port is the machine with the
offered inputs; with a key it is a register load. -/
theorem keyReadWaitsForKeyIn : Obligations.KeyReadWaitsForKeyIn := by
  intro x s
  refine ⟨decode_encode (.ldVxK x), execLdVxK_of_no_key x, fun rand hs hf hd => ⟨s.turn + 1, ?waits⟩,
    fun k hk => ⟨_, execLdVxK_of_key x hk, ?takes, setV_advancesWriting s x (keyValue k)⟩⟩
  case waits =>
    have hkey : (s.offer ⟨none, rand⟩).input.key = none := by rw [State.input_offer_of_running hs]
    have hresult : (s.offer ⟨none, rand⟩).result = .continues := by
      rw [State.result_eq_continues_iff, State.offer_toRecord, hs]
    rw [portStep_of_exec_next hs _ hf hd (execLdVxK_of_no_key x hkey), State.consumeInput_offer_of_running hs, hresult]
  case takes => rw [getV_setV_advance_same, keyValue_toNat]

end Sys2Proof.Machine
end

section
/-! The address register, memory blocks and RPL flags (spec/46_memory_ops.md): what each instruction answers on either
side of its range, slot or digit check, and what a block of stored bytes or loaded registers reads as. -/

namespace Sys2Proof.Machine

open Statements

/-! ### Writing I (R190 to R193, R219) -/

/-- Settles O46: the target takes any value of its 12 bits. -/
theorem loadIndexSetsI : Obligations.LoadIndexSetsI := fun nnn _ =>
  ⟨decode_encode (.ldI nnn), _, rfl, rfl, fun _ => rfl⟩

theorem addIndex_fst_toNat (i : Addr) (v : Byte) : (addIndex i v).1.toNat = (i.toNat + v.toNat) % 0x1000 :=
  BitVec.toNat_ofNat ..

theorem addIndex_snd_iff (i : Addr) (v : Byte) : (addIndex i v).2 = true ↔ i.toNat + v.toNat > 0xFFF :=
  decide_eq_true_iff

/-- Settles O47: `addIndex` sees the old values, and its carry goes to VF alone. -/
theorem addToIndexCarriesOutOfTwelveBits : Obligations.AddToIndexCarriesOutOfTwelveBits := by
  intro x s
  refine ⟨decode_encode (.addIVx x), _, rfl, addIndex_fst_toNat s.I (s.getV x), ?flag, fun z hz => ?others, rfl,
    fun _ => rfl⟩
  case flag => rw [State.getV_advance, State.getV_setFlag, if_pos rfl, flagByte_of_iff (addIndex_snd_iff _ _)]
  case others =>
    rw [State.getV_advance, State.getV_setFlag, if_neg (List.ne_of_not_mem_cons hz)]
    rfl

theorem smallGlyph_toNat {d : Nat} (hd : d ≤ 0xF) : (smallGlyph d).toNat = 5 * d :=
  Nat.mod_eq_of_lt (by omega)

theorem bigGlyph_toNat {d : Nat} (hd : d ≤ 9) : (bigGlyph d).toNat = 0x050 + 10 * d :=
  Nat.mod_eq_of_lt (by omega)

section
variable {s : State} {x : Reg}

theorem execLdF_of_digit (h : (s.getV x).toNat ≤ 0xF) :
    execLdF x s = .next { s with I := smallGlyph (s.getV x).toNat }.advance := withDigit_ok _ h

theorem execLdF_of_no_digit (h : (s.getV x).toNat > 0xF) :
    execLdF x s = .next { s with status := .faulted (.fontDigitOutOfRange (s.getV x)) } := withDigit_fault _ h

theorem execLdHf_of_digit (h : (s.getV x).toNat ≤ 9) :
    execLdHf x s = .next { s with I := bigGlyph (s.getV x).toNat }.advance := withDigit_ok _ h

theorem execLdHf_of_no_digit (h : (s.getV x).toNat > 9) :
    execLdHf x s = .next { s with status := .faulted (.fontDigitOutOfRange (s.getV x)) } := withDigit_fault _ h

end

/-- Settles O48: the digit check of each load lets exactly the digits of its font pass. -/
theorem fontLoadsPointAtTheGlyph : Obligations.FontLoadsPointAtTheGlyph := fun x _ =>
  ⟨decode_encode (.ldF x), decode_encode (.ldHf x),
    fun h => ⟨_, execLdF_of_digit h, smallGlyph_toNat h, rfl, fun _ => rfl⟩, execLdF_of_no_digit,
    fun h => ⟨_, execLdHf_of_digit h, bigGlyph_toNat h, rfl, fun _ => rfl⟩, execLdHf_of_no_digit⟩

/-! ### The range and slot checks (R216, R218) -/

section
variable {s : State} {x : Reg}

/-- The check for V0 to VX looks at the last address, I + X. -/
theorem withRange_regCount_ok (body : Result) (h : s.I.toNat + x.toNat ≤ 0xFFF) :
    s.withRange (regCount x) body = body :=
  withRange_ok body (.inr (by rw [regCount]; omega))

theorem withRange_regCount_fault (body : Result) (h : s.I.toNat + x.toNat > 0xFFF) :
    s.withRange (regCount x) body =
      .next { s with status := .faulted (.memoryOutOfRange (BitVec.ofNat 16 (s.I.toNat + x.toNat))) } :=
  withRange_fault body (Nat.succ_pos x.toNat) (by rw [regCount]; omega)

theorem execLdB_of_inMemory (h : s.I.toNat + 2 ≤ 0xFFF) :
    execLdB x s = .next (s.storeBytes s.I (decimalDigits (s.getV x))).advance :=
  withRange_ok _ (.inr (by omega))

theorem execLdB_of_beyond (h : s.I.toNat + 2 > 0xFFF) : execLdB x s =
    .next { s with status := .faulted (.memoryOutOfRange (BitVec.ofNat 16 (s.I.toNat + 2))) } :=
  withRange_fault _ (by decide) (by omega)

theorem execLdMemVx_of_inMemory (h : s.I.toNat + x.toNat ≤ 0xFFF) :
    execLdMemVx x s = .next (s.storeBytes s.I (s.regsUpTo x)).advance := withRange_regCount_ok _ h

theorem execLdVxMem_of_inMemory (h : s.I.toNat + x.toNat ≤ 0xFFF) :
    execLdVxMem x s = .next (s.loadV (regCount x) fun i => s.readByte (s.dataAddr i)).advance :=
  withRange_regCount_ok _ h

theorem execLdRVx_of_slot (h : x.toNat ≤ 7) :
    execLdRVx x s = .next (s.storeRpl (regCount x) fun i => s.getV (BitVec.ofNat 4 i)).advance := withRpl_ok _ h

theorem execLdVxR_of_slot (h : x.toNat ≤ 7) :
    execLdVxR x s = .next (s.loadV (regCount x) fun i => s.getRpl i).advance := withRpl_ok _ h

end

/-! ### Storing a block (R194, R195) -/

/-- A block store that advances changes memory and the program counter alone. -/
theorem storeBytes_advance_eq (s : State) (a : Addr) (l : List Byte) :
    (s.storeBytes a l).advance = { s with mem := (s.storeBytes a l).advance.mem, pc := s.pc + 2#16 } := by
  rw [State.storeBytes_eq]
  rfl

section
variable (s : State) (a : Addr) (v : Byte)

theorem readByte_storeBytes_decimalDigits :
    ((s.storeBytes a (decimalDigits v)).readByte a).toNat = v.toNat / 100 ∧
    ((s.storeBytes a (decimalDigits v)).readByte (a + 1#12)).toNat = v.toNat / 10 % 10 ∧
    ((s.storeBytes a (decimalDigits v)).readByte (a + 2#12)).toNat = v.toNat % 10 := by
  have hv := v.isLt
  have hread (k : Nat) (hk : k < 3) : (s.storeBytes a (decimalDigits v)).readByte (a + BitVec.ofNat 12 k) =
      (decimalDigits v)[k] := s.readByte_storeBytes a (decimalDigits v) k hk (by decide : 3 ≤ 0x1000)
  have hfirst := hread 0 (by decide)
  rw [BitVec.add_zero] at hfirst
  refine ⟨?hundreds, ?tens, ?ones⟩
  case hundreds =>
    rw [hfirst]
    exact Nat.mod_eq_of_lt (by omega)
  case tens =>
    rw [hread 1 (by decide)]
    exact Nat.mod_eq_of_lt (by omega)
  case ones =>
    rw [hread 2 (by decide)]
    exact Nat.mod_eq_of_lt (by omega)

theorem readByte_storeBytes_decimalDigits_other {b : Addr} (h0 : b ≠ a) (h1 : b ≠ a + 1#12) (h2 : b ≠ a + 2#12) :
    (s.storeBytes a (decimalDigits v)).readByte b = s.readByte b :=
  s.readByte_storeBytes_other a b (decimalDigits v) fun
    | 0, _ => (BitVec.add_zero a).symm ▸ h0
    | 1, _ => h1
    | 2, _ => h2

end

/-- Settles O49: the three digits are one block at I. -/
theorem decimalDigitsAreStored : Obligations.DecimalDigitsAreStored := by
  intro x s
  refine ⟨decode_encode (.ldB x), fun h => ?stores, execLdB_of_beyond⟩
  case stores =>
    obtain ⟨hundreds, tens, ones⟩ := readByte_storeBytes_decimalDigits s s.I (s.getV x)
    exact ⟨_, execLdB_of_inMemory h, hundreds, tens, ones,
      fun _ => readByte_storeBytes_decimalDigits_other s s.I (s.getV x), storeBytes_advance_eq s s.I _⟩

theorem reg_ofNat_toNat (z : Reg) : BitVec.ofNat 4 z.toNat = z := by
  rw [BitVec.ofNat_toNat, BitVec.setWidth_eq]

section
variable (s : State) (a : Addr) (x : Reg)

theorem readByte_storeBytes_regsUpTo {z : Reg} (hz : z.toNat ≤ x.toNat) :
    (s.storeBytes a (s.regsUpTo x)).readByte (a + z.setWidth 12) = s.getV z := by
  have hlen := regsUpTo_length s x
  have hx := x.isLt
  rw [← BitVec.ofNat_toNat, s.readByte_storeBytes a _ z.toNat (by omega) (by omega), regsUpTo_getElem,
    reg_ofNat_toNat]

/-- Every offset of the block is a register number. -/
theorem readByte_storeBytes_regsUpTo_other {b : Addr} (h : ∀ z : Reg, z.toNat ≤ x.toNat → b ≠ a + z.setWidth 12) :
    (s.storeBytes a (s.regsUpTo x)).readByte b = s.readByte b := by
  refine s.readByte_storeBytes_other a b _ fun k hk => ?_
  rw [regsUpTo_length] at hk
  have hx := x.isLt
  obtain ⟨z, rfl⟩ : ∃ z : Reg, z.toNat = k := ⟨BitVec.ofNat 4 k, Nat.mod_eq_of_lt (by omega)⟩
  rw [BitVec.ofNat_toNat]
  exact h z (Nat.le_of_lt_succ hk)

end

/-- Settles O50: the check of I + X comes before the block store, which puts Vz at offset z. -/
theorem registersAreStoredAtI : Obligations.RegistersAreStoredAtI := fun x s =>
  ⟨decode_encode (.ldMemVx x),
    fun h => ⟨_, execLdMemVx_of_inMemory h, fun _ => readByte_storeBytes_regsUpTo s s.I x,
      fun _ => readByte_storeBytes_regsUpTo_other s s.I x, storeBytes_advance_eq s s.I _⟩,
    withRange_regCount_fault _⟩

/-! ### Loading a block, and the RPL flags (R196 to R198) -/

section
variable (s : State) (x : Reg) (f : Nat → Byte)

theorem getV_loadV_regCount (z : Reg) :
    (s.loadV (regCount x) f).getV z = if z.toNat ≤ x.toNat then f z.toNat else s.getV z := by
  rw [State.getV_loadV]
  exact if_congr Nat.lt_succ_iff rfl rfl

theorem storeRpl_regCount_getElem {i : Nat} (hi : i < 8) :
    (s.storeRpl (regCount x) f).rpl[i]? = if i ≤ x.toNat then some (f i) else s.rpl[i]? := by
  rw [State.storeRpl_getElem s _ f i hi, apply_ite some, Vector.getElem?_eq_getElem hi]
  exact if_congr Nat.lt_succ_iff rfl rfl

end

/-- Settles O51: the check is that of the store, and offset z goes to Vz. -/
theorem registersAreLoadedFromI : Obligations.RegistersAreLoadedFromI := by
  intro x s
  refine ⟨decode_encode (.ldVxMem x), fun h => ⟨_, execLdVxMem_of_inMemory h, fun z => ?_, rfl, fun _ => rfl⟩,
    withRange_regCount_fault _⟩
  rw [State.getV_advance, getV_loadV_regCount, State.dataAddr, BitVec.ofNat_toNat]

/-- Settles O52: a slot number z within the check is the register number z, in either direction. -/
theorem rplFlagsAreStoredAndLoaded : Obligations.RplFlagsAreStoredAndLoaded := by
  intro x s
  refine ⟨decode_encode (.ldRVx x), decode_encode (.ldVxR x), fun h =>
    ⟨⟨_, execLdRVx_of_slot h, fun z hz => ?slot, rfl, fun _ => rfl⟩,
      ⟨_, execLdVxR_of_slot h, fun z hz => ?loaded, fun z hz => ?kept, rfl, fun _ => rfl⟩⟩,
    fun h => ⟨withRpl_fault _ h, withRpl_fault _ h⟩⟩
  case slot =>
    have hstored := storeRpl_regCount_getElem s x (fun i => s.getV (BitVec.ofNat 4 i)) hz
    rwa [reg_ofNat_toNat] at hstored
  case loaded => rw [State.getV_advance, getV_loadV_regCount, if_pos hz, State.getRpl_eq s z.toNat (by omega)]
  case kept => rw [State.getV_advance, getV_loadV_regCount, if_neg (by omega)]

end Sys2Proof.Machine
end

section
/-! The system instruction 00FD (spec/47_system.md): the halted machine and its steps. -/

namespace Sys2Proof.Machine

/-! ### The steps of a halted machine (R107) -/

section
variable {s : State} (hs : s.status = .halted)
include hs

theorem step_of_halted : step s = .next s := by
  simp only [step, cycle, hs]

theorem State.offer_of_halted (input : StepInput) : s.offer input = s := by
  rw [State.offer, hs]

theorem portStep_of_halted (input : StepInput) : portStep input s = (s, .halted) := by
  have hresult : s.result = .halted := s.result_eq_halted_iff.mpr hs
  simp only [portStep, State.offer_of_halted hs, step_of_halted hs, hresult]

end

/-! ### The halt -/

theorem execExit_eq (s : State) : execExit s = .next { s with status := .halted, pc := s.pc + 2#16 } := rfl

/-- Settles O54: the state 00FD leaves is halted, so every later step answers it unchanged; that the step which runs
00FD returns Halted too is a case of R108. -/
theorem exitHaltsCleanly : Obligations.ExitHaltsCleanly :=
  ⟨decode_encode .exit, fun s =>
    ⟨_, execExit_eq s, rfl, fun _ => rfl, step_of_halted rfl, portStep_of_halted rfl,
      fun input hs hf hd => (stepResultTellsHowTheRunStands s input hs).1.mpr ⟨hf, hd⟩⟩⟩

end Sys2Proof.Machine
end

section
/-! The decoder as the encoder's inverse, and the opcode map's rows side by side (spec/30_encoding.md sections 2
to 4). -/

namespace Sys2Proof

/-- Settles O1: one direction says what the decoder answers, the other what it answers on a word of the encoder. -/
theorem decodeIsInverseOfEncode : Obligations.DecodeIsInverseOfEncode := fun w i =>
  ⟨decode_encodes w i, fun hw => hw ▸ decode_encode i⟩

/-- A word that matches two rows makes their values agree on the bits that both masks keep. -/
theorem OpcodeRow.agree_of_matches {w : Word} {r r' : OpcodeRow} (h : w &&& r.mask = r.value)
    (h' : w &&& r'.mask = r'.value) : r.value &&& r'.mask = r'.value &&& r.mask := by
  rw [← h, ← h', BitVec.and_assoc, BitVec.and_assoc, BitVec.and_comm r.mask]

/-- Two different rows of the map differ on a bit that both masks keep. -/
theorem opcodeMap_agree : ∀ r ∈ opcodeMap, ∀ r' ∈ opcodeMap,
    r.value &&& r'.mask = r'.value &&& r.mask → r = r' := by
  decide

/-- Settles O3 (R90): rows that one word matches agree on their common bits, and no two different rows do. -/
theorem opcodeRowsAreDisjoint : Obligations.OpcodeRowsAreDisjoint :=
  ⟨rfl, fun _ r r' hr hr' h h' => opcodeMap_agree r hr r' hr' (OpcodeRow.agree_of_matches h h')⟩

/-- Settles O4: the ten mapped words are words of the encoder, and the four others are decoded by evaluation. -/
theorem sampleWordsDecode : Obligations.SampleWordsDecode :=
  ⟨decode_encode (.scd 2), decode_encode .ret, decode_encode (.jp 0x208), decode_encode (.seImm 3 0x07),
    decode_encode (.subReg 0xF 1), decode_encode (.ldI 0x2F0), decode_encode (.rnd 3 0x0F),
    decode_encode (.drw 0 1 0xA), decode_encode (.skp 0), decode_encode (.ldB 7), by decide, by decide, by decide,
    by decide⟩

end Sys2Proof
end

section
/-! The execute part in one form (spec/40_step.md rule R109): every instruction checks its fault condition, then
answers either fault entry (R211) or one completed state, written here as a single record update of the old state. -/

namespace Sys2Proof.Machine

open Statements

/-! ### The fault check and the completed state of each instruction -/

/-- The fault that `exec` raises: `faultCondition`, but for a CALL on a stack deeper than R31 allows (log entry 8). -/
def execFault (i : Instr) (s : State) : Option Fault :=
  match i with
  | .call _ => if s.sp ≥ s.cfg.stackCapacity.toNat then some (.stackOverflow s.pc) else none
  | i => faultCondition i s

/-- The state that an instruction leaves when its check passes. -/
def State.completed (s : State) : Instr → State
  | .scd n => (s.setFb (scrollDown s.mode n.toNat s.fb)).advance
  | .cls => (s.setFb blankFb).advance
  | .ret => s.pop.jumpTo (s.stack.getLast?.getD s.pc)
  | .scr => (s.setFb (scrollRight4 s.mode s.fb)).advance
  | .scl => (s.setFb (scrollLeft4 s.mode s.fb)).advance
  | .exit => { s with status := .halted }.advance
  | .low => (s.switchMode .standard).advance
  | .high => (s.switchMode .extended).advance
  | .jp nnn => s.jumpTo (targetNNN nnn)
  | .call nnn => (s.push (s.pc + 2#16)).jumpTo (targetNNN nnn)
  | .seImm x nn => s.skipIf (s.getV x == nn)
  | .sneImm x nn => s.skipIf (s.getV x != nn)
  | .seReg x y => s.skipIf (s.getV x == s.getV y)
  | .ldImm x nn => (s.setV x nn).advance
  | .addImm x nn => (s.setV x (addCarry (s.getV x) nn).1).advance
  | .ldReg x y => (s.setV x (s.getV y)).advance
  | .orReg x y => (s.setV x (s.getV x ||| s.getV y)).advance
  | .andReg x y => (s.setV x (s.getV x &&& s.getV y)).advance
  | .xorReg x y => (s.setV x (s.getV x ^^^ s.getV y)).advance
  | .addReg x y => (s.setWithFlag x (addCarry (s.getV x) (s.getV y))).advance
  | .subReg x y => (s.setWithFlag x (absDiff (s.getV x) (s.getV y))).advance
  | .shr x _ => (s.setWithFlag x (shiftRight1 (s.getV x))).advance
  | .subn x y => (s.setWithFlag x (absDiff (s.getV y) (s.getV x))).advance
  | .shl x _ => (s.setWithFlag x (shiftLeft1 (s.getV x))).advance
  | .sneReg x y => s.skipIf (s.getV x != s.getV y)
  | .ldI nnn => { s with I := nnn }.advance
  | .jpV0 nnn => s.jumpTo (targetV0 s nnn)
  | .rnd x nn => (s.setV x (s.input.rand &&& nn)).advance
  | .drw x y n => (s.afterDraw (s.draw x y n)).advance
  | .skp x => s.skipIf (s.key[(s.getV x).toNat]? == some true)
  | .sknp x => s.skipIf (s.key[(s.getV x).toNat]? == some false)
  | .ldVxDt x => (s.setV x s.DT).advance
  | .ldVxK x => (s.setV x ((s.input.key.map keyValue).getD (s.getV x))).jumpTo
      (if s.input.key = none then s.pc else s.pc + 2#16)
  | .ldDtVx x => { s with DT := s.getV x }.advance
  | .ldStVx x => { s with ST := s.getV x }.advance
  | .addIVx x => (({ s with I := (addIndex s.I (s.getV x)).1 }).setFlag (addIndex s.I (s.getV x)).2).advance
  | .ldF x => { s with I := smallGlyph (s.getV x).toNat }.advance
  | .ldHf x => { s with I := bigGlyph (s.getV x).toNat }.advance
  | .ldB x => { s with mem := (s.storeBytes s.I (decimalDigits (s.getV x))).mem }.advance
  | .ldMemVx x => { s with mem := (s.storeBytes s.I (s.regsUpTo x)).mem }.advance
  | .ldVxMem x => (s.loadV (regCount x) fun i => s.readByte (s.dataAddr i)).advance
  | .ldRVx x => (s.storeRpl (regCount x) fun i => s.getV (BitVec.ofNat 4 i)).advance
  | .ldVxR x => (s.loadV (regCount x) fun i => s.getRpl i).advance

/-- Fault entry with the fault that a check found, or what the instruction answers when it found none. -/
def State.checked (s : State) (found : Option Fault) (body : Result) : Result :=
  match found with
  | some f => raise f s
  | none => body

/-- A check is told by what its instruction answers on either side of the condition. -/
theorem eq_checked_ite {s : State} {c : Prop} [Decidable c] {f : Fault} {r body : Result}
    (hfault : c → r = raise f s) (hbody : ¬ c → r = body) :
    r = s.checked (if c then some f else none) body := by
  split
  case isTrue hc => exact hfault hc
  case isFalse hc => exact hbody hc

/-- A block store writes memory alone, so its completed state is one update of the old state. -/
theorem next_storeBytes_advance (s : State) (a : Addr) (l : List Byte) :
    (.next (s.storeBytes a l).advance : Result) = .next { s with mem := (s.storeBytes a l).mem }.advance :=
  congrArg (fun t => Host.Outcome.next (State.advance t)) (State.storeBytes_eq s a l)

/-! ### The instructions that check something -/

section
variable (s : State) (x y : Reg)

theorem execCall_checked (nnn : Addr) :
    execCall nnn s = s.checked (execFault (.call nnn) s) (.next (s.completed (.call nnn))) :=
  eq_checked_ite (fun h => if_pos h) (fun h => if_neg h)

theorem execRet_checked : execRet s = s.checked (execFault .ret s) (.next (s.completed .ret)) := by
  refine eq_checked_ite execRet_of_empty fun h => ?_
  have hne : s.stack ≠ [] := fun hnil => h (congrArg List.length hnil)
  obtain ⟨below, a, htop⟩ := s.stack.eq_nil_or_concat'.resolve_left hne
  rw [execRet_of_top htop, State.completed, htop, List.getLast?_concat, Option.getD_some]

/-- SKP and SKNP ask the keypad for one answer `b` of the key that VX names. -/
theorem withKey_skipIf_checked (b : Bool) {body : Bool → Result}
    (hbody : ∀ pressed, body pressed = .next (s.skipIf (pressed == b))) :
    s.withKey x body = s.checked (if (s.getV x).toNat > 0xF then some (.keyIndexOutOfRange (s.getV x)) else none)
      (.next (s.skipIf (s.key[(s.getV x).toNat]? == some b))) := by
  refine eq_checked_ite (withKey_fault body) fun h => ?_
  have hkey := Vector.getElem?_eq_getElem (xs := s.key) (i := (s.getV x).toNat) (by omega)
  rw [withKey_ok body hkey, hbody, hkey, Option.some_beq_some]

/-- The bytes of a sprite, as the fault condition of R163 counts them. -/
theorem spriteBytes_eq (m : Mode) (n : Nibble) :
    spriteBytes m n = if n.toNat ≥ 1 then n.toNat else if m = .extended then 32 else 0 := by
  cases m <;> rfl

theorem execDrw_checked (n : Nibble) :
    execDrw x y n s = s.checked (execFault (.drw x y n) s) (.next (s.completed (.drw x y n))) := by
  rw [execDrw, spriteBytes_eq]
  exact eq_checked_ite (fun h => if_pos h) (fun h => if_neg h)

theorem execLdB_checked : execLdB x s = s.checked (execFault (.ldB x) s) (.next (s.completed (.ldB x))) :=
  eq_checked_ite execLdB_of_beyond fun h =>
    (execLdB_of_inMemory (Nat.le_of_not_gt h)).trans (next_storeBytes_advance s _ _)

theorem execLdMemVx_checked :
    execLdMemVx x s = s.checked (execFault (.ldMemVx x) s) (.next (s.completed (.ldMemVx x))) :=
  eq_checked_ite (withRange_regCount_fault _) fun h =>
    (execLdMemVx_of_inMemory (Nat.le_of_not_gt h)).trans (next_storeBytes_advance s _ _)

/-- With no key VX is set to itself, which changes nothing (R181). -/
theorem State.setV_getV : s.setV x (s.getV x) = s := by
  rw [State.setV, State.getV, Vector.set_getElem_self]

theorem execLdVxK_completed : execLdVxK x s = .next (s.completed (.ldVxK x)) := by
  cases hkey : s.input.key with
  | none =>
    rw [execLdVxK_of_no_key x hkey, State.completed, hkey]
    exact congrArg Host.Outcome.next (State.setV_getV s x).symm
  | some k =>
    rw [execLdVxK_of_key x hkey, State.completed, hkey]
    rfl

end

/-- ONE INSTRUCTION: fault entry where its check finds a fault, else its completed state. -/
theorem exec_checked (i : Instr) (s : State) : exec i s = s.checked (execFault i s) (.next (s.completed i)) := by
  cases i
  case call nnn => exact execCall_checked s nnn
  case ret => exact execRet_checked s
  case skp x => exact withKey_skipIf_checked s x true fun pressed => by rw [beq_true]
  case sknp x => exact withKey_skipIf_checked s x false fun pressed => by rw [beq_false]
  case drw x y n => exact execDrw_checked s x y n
  case ldF x => exact eq_checked_ite execLdF_of_no_digit fun h => execLdF_of_digit (Nat.le_of_not_gt h)
  case ldHf x => exact eq_checked_ite execLdHf_of_no_digit fun h => execLdHf_of_digit (Nat.le_of_not_gt h)
  case ldB x => exact execLdB_checked s x
  case ldMemVx x => exact execLdMemVx_checked s x
  case ldVxMem x =>
    exact eq_checked_ite (withRange_regCount_fault _) fun h => execLdVxMem_of_inMemory (Nat.le_of_not_gt h)
  case ldRVx x => exact eq_checked_ite (withRpl_fault _) fun h => execLdRVx_of_slot (Nat.le_of_not_gt h)
  case ldVxR x => exact eq_checked_ite (withRpl_fault _) fun h => execLdVxR_of_slot (Nat.le_of_not_gt h)
  case ldVxK x => exact execLdVxK_completed s x
  all_goals rfl

theorem exec_of_fault {i : Instr} {s : State} {f : Fault} (h : execFault i s = some f) :
    exec i s = .next { s with status := .faulted f } := by
  rw [exec_checked, h]
  rfl

theorem exec_of_no_fault {i : Instr} {s : State} (h : execFault i s = none) :
    exec i s = .next (s.completed i) := by
  rw [exec_checked, h]
  rfl

/-- Everything an instruction can answer (R109): a next state, faulted or completed. -/
theorem exec_cases {i : Instr} {s t : State} (h : exec i s = .next t) :
    (∃ f, execFault i s = some f ∧ t = { s with status := .faulted f }) ∨
    (execFault i s = none ∧ t = s.completed i) := by
  cases hf : execFault i s with
  | some f =>
    rw [exec_of_fault hf] at h
    cases h
    exact .inl ⟨f, rfl, rfl⟩
  | none =>
    rw [exec_of_no_fault hf] at h
    cases h
    exact .inr ⟨rfl, rfl⟩

/-- Where R31's bound on the stack holds, `exec` faults by the rules' own conditions. -/
theorem execFault_eq {s : State} (i : Instr) (hs : s.sp ≤ s.cfg.stackCapacity.toNat) :
    execFault i s = faultCondition i s := by
  cases i
  case call nnn => exact if_congr (Nat.le_antisymm_iff.trans (and_iff_right hs)).symm rfl rfl
  all_goals rfl

end Sys2Proof.Machine
end

section
/-! What every instruction keeps: the invariant of the machine under each completed state, each step and each turn of
the driver (spec/10_state.md sections 4, 7 and 10, spec/20_memory.md section 1, spec/60_exceptions.md section 3). -/

namespace Sys2Proof.Machine

open Statements

/-! ### The completed state, one part of the invariant at a time -/

section
variable {s : State} (hs : s.Inv)
include hs

theorem completed_mem_wf (i : Instr) : Memory.wf (s.completed i).cfg (s.completed i).mem := by
  have hstore (a : Addr) (l : List Byte) : Memory.wf s.cfg (s.storeBytes a l).mem := by
    have hwf := s.wf_storeBytes a l hs.mem
    rwa [State.storeBytes_cfg] at hwf
  cases i
  case ldB x => exact hstore _ _
  case ldMemVx x => exact hstore _ _
  all_goals exact hs.mem

/-- The greatest pc is that of BNNN (R25); a return goes at most to 0x1000, and an advance starts in the fetchable
range. -/
theorem completed_pc_lt (hf : s.fetchable) (i : Instr) : (s.completed i).pc.toNat < 0x1100 := by
  have hpc := hs.pc
  have hle := hf.2
  obtain ⟨hadvance, hskip⟩ := fetchable_advance hf
  have hjump (nnn : Addr) : (targetNNN nnn).toNat < 0x1100 := by
    rw [targetNNN_toNat]
    omega
  have hnext : (s.pc + 2#16).toNat < 0x1100 := by omega
  have hskipIf (c : Bool) : (s.skipIf c).pc.toNat < 0x1100 := by
    rw [State.skipIf_pc]
    split <;> omega
  cases i
  case jp nnn | call nnn => exact hjump nnn
  case jpV0 nnn => exact Nat.lt_of_le_of_lt (targetV0_le s nnn) (by decide)
  case ret =>
    change (s.stack.getLast?.getD s.pc).toNat < 0x1100
    cases htop : s.stack.getLast? with
    | none => exact hpc
    | some a =>
      have ha := (hs.entries a (List.mem_of_getLast? htop)).2
      exact Nat.lt_of_le_of_lt ha (by decide)
  case ldVxK x =>
    change (if s.input.key = none then s.pc else s.pc + 2#16).toNat < 0x1100
    split <;> omega
  case seImm | sneImm | seReg | sneReg | skp | sknp => exact hskipIf _
  all_goals exact hnext

/-- A CALL that its check lets pass finds room on the stack (R213). -/
theorem completed_depth {i : Instr} (hnone : execFault i s = none) :
    (s.completed i).sp ≤ (s.completed i).cfg.stackCapacity.toNat := by
  cases i
  case call nnn =>
    have hroom : ¬ s.sp ≥ s.cfg.stackCapacity.toNat := fun hfull =>
      Option.some_ne_none _ ((if_pos hfull).symm.trans hnone)
    change (s.stack ++ [s.pc + 2#16]).length ≤ s.cfg.stackCapacity.toNat
    rw [List.length_append]
    exact Nat.lt_of_not_ge hroom
  case ret =>
    change s.stack.dropLast.length ≤ s.cfg.stackCapacity.toNat
    rw [List.length_dropLast]
    exact (Nat.sub_le _ _).trans hs.depth
  all_goals exact hs.depth

/-- A CALL pushes pc + 2, and in the fetchable range that is a return address (R30). -/
theorem completed_entries (hf : s.fetchable) (i : Instr) : ∀ a ∈ (s.completed i).stack, returnAddrOk a := by
  cases i
  case call nnn =>
    refine List.forall_mem_append.mpr ⟨hs.entries, List.forall_mem_singleton.mpr ?_⟩
    rw [returnAddrOk, (fetchable_advance hf).1]
    exact ⟨Nat.add_le_add_right hf.1 2, Nat.add_le_add_right hf.2 2⟩
  case ret => exact fun a ha => hs.entries a (List.mem_of_mem_dropLast ha)
  all_goals exact hs.entries

/-- In Standard mode a draw and a scroll keep the cells past the screen, and a clear blanks them (R38). -/
theorem completed_offscreen (i : Instr) (hm : (s.completed i).mode = .standard) {j : Nat} (hj : 2048 ≤ j) :
    Fb.cell (s.completed i).fb j = false := by
  have hscroll (hm : s.mode = .standard) (f : Nat → BitVec s.mode.width) :
      Fb.cell (Fb.setScreen s.mode f s.fb) j = false := by
    rw [Fb.cell_setScreen_off s.mode f s.fb (by rwa [hm])]
    exact hs.offscreen hm j hj
  cases i
  case drw x y n =>
    have hstd : s.mode = .standard := hm
    exact (draw_cell_off s x y n (by rwa [hstd])).trans (hs.offscreen hstd j hj)
  case scd | scr | scl => exact hscroll hm _
  case cls | low => exact Fb.cell_blank j
  case high => cases hm
  all_goals exact hs.offscreen hm j hj

theorem completed_inv (hf : s.fetchable) {i : Instr} (hnone : execFault i s = none) : (s.completed i).Inv where
  mem := completed_mem_wf hs i
  pc := completed_pc_lt hs hf i
  depth := completed_depth hs hnone
  entries := completed_entries hs hf i
  offscreen hm _ := completed_offscreen hs i hm

/-! ### Steps, turns and runs -/

/-- The invariant does not speak of the registers, the timers, the keypad, the status or the inputs. -/
theorem State.Inv.congr {t : State} (hmem : t.mem = s.mem) (hpc : t.pc = s.pc) (hstack : t.stack = s.stack)
    (hfb : t.fb = s.fb) (hmode : t.mode = s.mode) (hcfg : t.cfg = s.cfg) : t.Inv where
  mem := by rw [hmem, hcfg]; exact hs.mem
  pc := by rw [hpc]; exact hs.pc
  depth := by rw [State.sp, hstack, hcfg]; exact hs.depth
  entries := by rw [hstack]; exact hs.entries
  offscreen := by rw [hmode, hfb]; exact hs.offscreen

theorem exec_inv (hf : s.fetchable) {i : Instr} {t : State} (h : exec i s = .next t) : t.Inv := by
  rcases exec_cases h with ⟨f, -, rfl⟩ | ⟨hnone, rfl⟩
  · exact hs.congr rfl rfl rfl rfl rfl rfl
  · exact completed_inv hs hf hnone

theorem step_inv {t : State} (h : step s = .next t) : t.Inv := by
  rcases step_cases h with ⟨-, rfl⟩ | ⟨-, -, rfl⟩ | ⟨-, -, -, rfl⟩ | ⟨i, u, -, hf, -, hu, rfl⟩
  · exact hs
  · exact hs.congr rfl rfl rfl rfl rfl rfl
  · exact hs.congr rfl rfl rfl rfl rfl rfl
  · exact (exec_inv hs hf hu).congr rfl rfl rfl rfl rfl rfl

theorem offer_inv (input : StepInput) : (s.offer input).Inv := by
  apply hs.congr <;> simp only [State.offer_toRecord, State.offer_cfg]

theorem portStep_inv (input : StepInput) : (portStep input s).1.Inv := by
  unfold portStep
  split
  case h_1 t ht => exact step_inv (offer_inv hs input) ht
  case h_2 | h_3 => exact hs

theorem hostAction_inv (a : HostAction) : (a.apply s).Inv := by
  cases a <;> exact hs.congr rfl rfl rfl rfl rfl rfl

end

theorem applyActions_inv (acts : List HostAction) {s : State} (hs : s.Inv) : (applyActions acts s).Inv :=
  List.foldlRecOn acts _ hs fun _ ht a _ => hostAction_inv ht a

/-- Settles O17: of a step only the instruction it runs needs more than `State.Inv.congr`. -/
theorem stepKeepsTheInvariant : Obligations.StepKeepsTheInvariant := fun _ _ hs h => step_inv hs h

/-- Settles O59: the host's actions and the step port keep the invariant one after the other. -/
theorem everyTurnKeepsTheInvariant : Obligations.EveryTurnKeepsTheInvariant :=
  fun turn _ hs => portStep_inv (applyActions_inv turn.acts hs) turn.input

theorem drive_inv (turns : List Turn) {s : State} (hs : s.Inv) : (drive turns s).Inv :=
  List.foldlRecOn turns _ hs fun u hu turn _ => everyTurnKeepsTheInvariant turn u hu

theorem reset_inv (c : Config) : ({ State.reset with cfg := c } : State).Inv where
  mem := ⟨List.Pairwise.nil, fun _ h => absurd h List.not_mem_nil⟩
  pc := (by decide : State.reset.pc.toNat < 0x1100)
  depth := Nat.zero_le _
  entries := List.forall_mem_nil _
  offscreen _ j _ := Fb.cell_blank j

/-- Settles O16: reset is the machine of the default parameters before any image is stored. -/
theorem invariantHoldsAtReset : Obligations.InvariantHoldsAtReset := reset_inv Config.default

theorem storeBytes_inv {s : State} (hs : s.Inv) (a : Addr) (l : List Byte) : (s.storeBytes a l).Inv where
  mem := s.wf_storeBytes a l hs.mem
  pc := by rw [State.storeBytes_pc]; exact hs.pc
  depth := by rw [State.sp, State.storeBytes_stack, State.storeBytes_cfg]; exact hs.depth
  entries := by rw [State.storeBytes_stack]; exact hs.entries
  offscreen := by rw [State.storeBytes_mode, State.storeBytes_fb]; exact hs.offscreen

/-- The machine that a load makes is `State.loaded` (R240). -/
theorem portLoad_inv {c : Config} {image : List Byte} {m : State} (h : portLoad c image = .ok m) : m.Inv := by
  unfold portLoad at h
  split at h
  · cases h
    exact storeBytes_inv (reset_inv c) loadAddr image
  · cases h

/-- Settles O18: load makes a machine with the invariant, and every turn keeps it. -/
theorem invariantHoldsUnderEveryDriver : Obligations.InvariantHoldsUnderEveryDriver :=
  fun _ _ _ turns h => drive_inv turns (portLoad_inv h)

end Sys2Proof.Machine
end

section
/-! The fault conditions, the next pc and the writers of each field (spec/60_exceptions.md section 2,
spec/10_state.md), read off the completed state of each instruction. -/

namespace Sys2Proof.Machine

open Statements

/-! ### Faults (R211, R213 to R219) -/

/-- Only 00FD leaves another status than the one it found. -/
theorem completed_status_ne_faulted {s : State} (hs : s.status = .running) (i : Instr) (f : Fault) :
    (s.completed i).status ≠ .faulted f := by
  cases i
  case exit => exact Status.noConfusion
  all_goals exact fun h => Status.noConfusion (hs.symm.trans h)

/-- Settles O20: an instruction faults exactly where its check finds a fault, and within R31's bound the check is the
condition of its rule. -/
theorem faultsAreExactlyTheRulesAndPrecise : Obligations.FaultsAreExactlyTheRulesAndPrecise := by
  intro i s hs hdepth
  rw [← execFault_eq i hdepth]
  exact ⟨fun _ => exec_of_fault, fun hnone =>
    ⟨s.completed i, exec_of_no_fault hnone, completed_status_ne_faulted hs i⟩⟩

/-! ### The next pc (R26) -/

/-- Each completed state stands at the pc that R26 gives its instruction. -/
theorem completed_pc {i : Instr} {s : State} (hnone : faultCondition i s = none) :
    (s.completed i).pc = pcAfter i s := by
  rw [pcAfter.eq_def, hnone]
  have hskip {c : Bool} {p : Prop} [Decidable p] (hc : c = true ↔ p) :
      (s.skipIf c).pc = if p then s.pc + 4#16 else s.pc + 2#16 := by
    rw [State.skipIf_pc, if_congr hc rfl rfl]
  cases i
  case seImm | seReg | skp | sknp => exact hskip beq_iff_eq
  case sneImm | sneReg => exact hskip bne_iff_ne
  all_goals rfl

/-- Settles O19: a fault leaves pc, and a completed instruction sets it by R26. -/
theorem everyInstructionHasANextStateAtItsPc : Obligations.EveryInstructionHasANextStateAtItsPc := by
  intro i s
  cases hf : execFault i s with
  | some f =>
    refine ⟨_, exec_of_fault hf, fun hdepth => ?_⟩
    rw [execFault_eq i hdepth] at hf
    rw [pcAfter.eq_def, hf]
  | none =>
    refine ⟨_, exec_of_no_fault hf, fun hdepth => completed_pc ?_⟩
    rwa [execFault_eq i hdepth] at hf

/-! ### The writers of each field (R28 to R41, R60) -/

section
variable {i : Instr} {s : State}

theorem writer_of_I (h : (s.completed i).I ≠ s.I) :
    (∃ n, i = .ldI n) ∨ (∃ x, i = .addIVx x) ∨ (∃ x, i = .ldF x) ∨ ∃ x, i = .ldHf x := by
  cases i
  case ldI n => exact .inl ⟨n, rfl⟩
  case addIVx x => exact .inr (.inl ⟨x, rfl⟩)
  case ldF x => exact .inr (.inr (.inl ⟨x, rfl⟩))
  case ldHf x => exact .inr (.inr (.inr ⟨x, rfl⟩))
  all_goals exact absurd rfl h

theorem writer_of_rpl (h : (s.completed i).rpl ≠ s.rpl) : ∃ x, i = .ldRVx x := by
  cases i
  case ldRVx x => exact ⟨x, rfl⟩
  all_goals exact absurd rfl h

theorem writer_of_stack (h : (s.completed i).stack ≠ s.stack) : i = .ret ∨ ∃ n, i = .call n := by
  cases i
  case ret => exact .inl rfl
  case call n => exact .inr ⟨n, rfl⟩
  all_goals exact absurd rfl h

theorem writer_of_mem (h : (s.completed i).mem ≠ s.mem) : (∃ x, i = .ldB x) ∨ ∃ x, i = .ldMemVx x := by
  cases i
  case ldB x => exact .inl ⟨x, rfl⟩
  case ldMemVx x => exact .inr ⟨x, rfl⟩
  all_goals exact absurd rfl h

theorem writer_of_DT (h : (s.completed i).DT ≠ s.DT) : ∃ x, i = .ldDtVx x := by
  cases i
  case ldDtVx x => exact ⟨x, rfl⟩
  all_goals exact absurd rfl h

theorem writer_of_ST (h : (s.completed i).ST ≠ s.ST) : ∃ x, i = .ldStVx x := by
  cases i
  case ldStVx x => exact ⟨x, rfl⟩
  all_goals exact absurd rfl h

theorem writer_of_mode (h : (s.completed i).mode ≠ s.mode) : i = .low ∨ i = .high := by
  cases i
  case low => exact .inl rfl
  case high => exact .inr rfl
  all_goals exact absurd rfl h

theorem writer_of_status (h : (s.completed i).status ≠ s.status) : i = .exit := by
  cases i
  case exit => rfl
  all_goals exact absurd rfl h

/-- An instruction writes the framebuffer, and then it sets `redraw` (R39), or it leaves both alone. -/
theorem completed_redraw (i : Instr) (s : State) :
    (writesFb i ∧ (s.completed i).redraw = true) ∨
    ((s.completed i).fb = s.fb ∧ (s.completed i).redraw = s.redraw) := by
  cases i
  case cls | scr | scl | low | high => exact .inl ⟨by simp [writesFb], rfl⟩
  case scd | drw => exact .inl ⟨by simp [writesFb], rfl⟩
  all_goals exact .inr ⟨rfl, rfl⟩

/-- No instruction writes the keypad or the environment of the step. -/
theorem completed_key (i : Instr) (s : State) : (s.completed i).key = s.key := by
  cases i <;> rfl

theorem completed_toEnvironment (i : Instr) (s : State) : (s.completed i).toEnvironment = s.toEnvironment := by
  cases i <;> rfl

section
variable {t : State} (h : exec i s = .next t)
include h

theorem exec_toEnvironment : t.toEnvironment = s.toEnvironment := by
  rcases exec_cases h with ⟨f, -, rfl⟩ | ⟨-, rfl⟩
  · rfl
  · exact completed_toEnvironment i s

theorem exec_cfg : t.cfg = s.cfg := congrArg Environment.cfg (exec_toEnvironment h)

theorem exec_inputs : t.inputs = s.inputs := congrArg Environment.inputs (exec_toEnvironment h)

theorem exec_turn : t.turn = s.turn := congrArg Environment.turn (exec_toEnvironment h)

end

end

/-- Settles O21: fault entry changes the status alone, and a completed state is taken field by field. -/
theorem eachFieldHasOnlyItsWriters : Obligations.EachFieldHasOnlyItsWriters := by
  intro i s t h
  have hcfg := exec_cfg h
  have hinputs := exec_inputs h
  have hturn := exec_turn h
  rcases exec_cases h with ⟨f, -, rfl⟩ | ⟨-, rfl⟩
  · exact ⟨absurd rfl, absurd rfl, absurd rfl, absurd rfl, absurd rfl, absurd rfl, absurd rfl, absurd rfl,
      absurd rfl, fun _ => .inr ⟨f, rfl⟩, rfl, rfl, rfl, rfl⟩
  · have hfb := completed_redraw i s
    exact ⟨writer_of_I, writer_of_rpl, writer_of_stack, writer_of_mem, writer_of_DT, writer_of_ST,
      fun hne => (hfb.resolve_right fun hkept => hne hkept.1).1,
      fun hne => hfb.resolve_right fun hkept => hne hkept.2,
      writer_of_mode, fun hne => .inl (writer_of_status hne), completed_key i s, hcfg, hinputs, hturn⟩

/-! ### The writers of each register (R22, R23) -/

section
variable {s : State} {x z : Reg}

theorem eq_of_setV_ne {v : Byte} (h : (s.setV x v).getV z ≠ s.getV z) : z = x := by
  rw [State.getV_setV] at h
  exact (ite_ne_right_iff.mp h).1

theorem eq_of_setWithFlag_ne {r : Byte × Bool} (h : (s.setWithFlag x r).getV z ≠ s.getV z) :
    z = x ∨ z = 0xF#4 := by
  by_contra hz
  obtain ⟨hx, hF⟩ := not_or.mp hz
  rw [State.getV_setWithFlag, if_neg hF, if_neg hx] at h
  exact h rfl

theorem le_of_loadV_ne {f : Nat → Byte} (h : (s.loadV (regCount x) f).getV z ≠ s.getV z) : z.toNat ≤ x.toNat := by
  rw [getV_loadV_regCount] at h
  exact (ite_ne_right_iff.mp h).1

end

/-- Settles O22: the completed states that differ in a register write one, one and the flag, the flag, or V0 to VX. -/
theorem eachRegisterHasOnlyItsWriters : Obligations.EachRegisterHasOnlyItsWriters := by
  intro i s t z h hne
  rcases exec_cases h with ⟨f, -, rfl⟩ | ⟨-, rfl⟩
  · exact absurd rfl hne
  cases i
  case ldImm | addImm | rnd | ldVxDt | ldVxK => exact eq_of_setV_ne hne
  case ldReg | orReg | andReg | xorReg => exact eq_of_setV_ne hne
  case addReg | subReg | shr | subn | shl => exact eq_of_setWithFlag_ne hne
  case drw | addIVx => exact eq_of_setV_ne hne
  case ldVxMem | ldVxR => exact le_of_loadV_ne hne
  all_goals exact absurd rfl hne

end Sys2Proof.Machine
end

section
/-! The step port and its inputs, and the machine under a driver (spec/40_step.md, spec/10_state.md section 1,
spec/60_exceptions.md sections 3 and 4). -/

namespace Sys2Proof.Machine

open Statements

/-! ### One step and one call of the port (R100, R104, R109) -/

/-- Settles O5: past the status check, the fetch and the decoder, a step is `exec` and the use of its inputs. -/
theorem stepRunsTheDecodedInstruction : Obligations.StepRunsTheDecodedInstruction := by
  intro s i t hs hf hd ht
  rw [step_of_decode_some hs hf hd, ht, endStep]

/-- Settles O13: an advance starts in the fetchable range, and the sum of BNNN has room in 16 bits. -/
theorem advanceNeverWraps : Obligations.AdvanceNeverWraps :=
  ⟨fun _ => fetchable_advance, targetV0_toNat⟩

/-- Every instruction answers a next state in every state (R109). -/
theorem exec_exists_next (i : Instr) (s : State) : ∃ t, exec i s = .next t := by
  obtain ⟨t, ht, -⟩ := everyInstructionHasANextStateAtItsPc i s
  exact ⟨t, ht⟩

/-- Settles O11: no instruction touches the queue, so what a step uses up is the input offered to it. -/
theorem portStepSuppliesItsInputs : Obligations.PortStepSuppliesItsInputs := by
  intro s input i hs hf hd
  obtain ⟨t, ht⟩ := exec_exists_next i (s.offer input)
  have hport := portStep_of_exec_next hs input hf hd ht
  rw [State.offer_of_running hs] at ht
  refine ⟨t, ht, congrArg Prod.fst hport, ?_⟩
  rw [hport, State.consumeInput_inputs, exec_inputs ht, List.tail_cons]

/-! ### Who reads the inputs (R106) -/

/-- No check looks at the lined-up inputs. -/
theorem execFault_lined (i : Instr) (s : State) (a : List StepInput) (n : Nat) :
    execFault i (s.lined a n) = execFault i s := by
  cases i <;> rfl

/-- A completed state depends on the inputs by the key of FX0A and the draw of CXNN alone. -/
theorem completed_lined (i : Instr) (s : State) (a : List StepInput) (n : Nat)
    (hkey : ∀ x, i = .ldVxK x → (s.lined a n).input.key = s.input.key)
    (hrand : ∀ x nn, i = .rnd x nn → (s.lined a n).input.rand = s.input.rand) :
    (s.lined a n).completed i = (s.completed i).lined a n := by
  have hstore (l : List Byte) : ((s.lined a n).storeBytes s.I l).mem = (s.storeBytes s.I l).mem := by
    rw [State.storeBytes_lined, State.lined_toRecord]
  cases i
  case ldVxK x => simp only [State.completed, hkey x rfl]; rfl
  case rnd x nn => simp only [State.completed, hrand x nn rfl]; rfl
  case ldB x => exact congrArg (fun m => ({ s.lined a n with mem := m } : State).advance) (hstore _)
  case ldMemVx x => exact congrArg (fun m => ({ s.lined a n with mem := m } : State).advance) (hstore _)
  all_goals rfl

/-- With other lined-up inputs that agree on what it reads, an instruction answers the same state but for them. -/
theorem exec_next_lined {i : Instr} {s t : State} (a : List StepInput) (n : Nat)
    (hkey : ∀ x, i = .ldVxK x → (s.lined a n).input.key = s.input.key)
    (hrand : ∀ x nn, i = .rnd x nn → (s.lined a n).input.rand = s.input.rand) (h : exec i s = .next t) :
    exec i (s.lined a n) = .next (t.lined a n) := by
  have hfault := execFault_lined i s a n
  rcases exec_cases h with ⟨f, hf, rfl⟩ | ⟨hnone, rfl⟩
  · exact exec_of_fault (hfault.trans hf)
  · rw [exec_of_no_fault (hfault.trans hnone), completed_lined i s a n hkey hrand]

/-- Settles O12: the two states differ in the lined-up inputs, and `a` and `b` agree on what the instruction reads. -/
theorem onlyFx0aAndCxnnReadTheInputs : Obligations.OnlyFx0aAndCxnnReadTheInputs := by
  intro i s t a b rest hkey hrand h
  have hturn : t.turn = s.turn := exec_turn (s := { s with inputs := a :: rest }) h
  have hb : exec i { s with inputs := b :: rest } = .next (t.lined (b :: rest) s.turn) :=
    exec_next_lined (s := { s with inputs := a :: rest }) (b :: rest) s.turn (fun x hi => (hkey x hi).symm)
      (fun x nn hi => (hrand x nn hi).symm) h
  rw [hb, ← hturn]
  rfl

/-! ### A stopped machine (R107) -/

section
variable {s : State}

theorem step_of_faulted {f : Fault} (hs : s.status = .faulted f) : step s = .fault f := by
  simp only [step, cycle, hs]

theorem portStep_of_faulted {f : Fault} (hs : s.status = .faulted f) (input : StepInput) :
    portStep input s = (s, .fault f) := by
  have hoffer : s.offer input = s := by rw [State.offer, hs]
  simp only [portStep, hoffer, step_of_faulted hs]

theorem portStep_of_stopped (hs : s.status ≠ .running) (input : StepInput) : portStep input s = (s, s.result) := by
  cases hst : s.status with
  | running => exact absurd hst hs
  | halted => rw [portStep_of_halted hst, State.result, hst]
  | faulted f => rw [portStep_of_faulted hst, State.result, hst]

end

/-- `t` is `s` but for what the host's own ports write: the timers, the keypad and `redraw` (R231). -/
def HostChanges (s t : State) : Prop :=
  t = { s with DT := t.DT, ST := t.ST, key := t.key, redraw := t.redraw }

theorem HostChanges.trans {s t u : State} (hst : HostChanges s t) (htu : HostChanges t u) : HostChanges s u := by
  rw [HostChanges] at hst
  rw [HostChanges, htu, hst]

theorem HostChanges.status {s t : State} (h : HostChanges s t) : t.status = s.status := by
  rw [h]

theorem hostChanges_apply (a : HostAction) (s : State) : HostChanges s (a.apply s) := by
  cases a <;> rfl

theorem hostChanges_applyActions (acts : List HostAction) (s : State) : HostChanges s (applyActions acts s) :=
  List.foldlRecOn (motive := HostChanges s) acts _ rfl fun t ht a _ => ht.trans (hostChanges_apply a t)

theorem hostChanges_driveTurn (turn : Turn) {s : State} (hs : s.status ≠ .running) :
    HostChanges s (driveTurn turn s) := by
  have hacts := hostChanges_applyActions turn.acts s
  rw [driveTurn, portStep_of_stopped (by rwa [hacts.status])]
  exact hacts

/-- Settles O57: the step port gives a stopped machine back, so that only the host's actions are left of a turn. -/
theorem stoppedMachineStaysAsItIs : Obligations.StoppedMachineStaysAsItIs := fun turns s hs =>
  List.foldlRecOn (motive := HostChanges s) turns _ rfl fun t ht turn _ =>
    ht.trans (hostChanges_driveTurn turn (by rwa [ht.status]))

/-- Settles O9: the stored outcome by cases of the status, which the host's own ports cannot change. -/
theorem stoppedMachineGivesStoredOutcome : Obligations.StoppedMachineGivesStoredOutcome := fun s input =>
  ⟨fun hs => ⟨step_of_halted hs, portStep_of_halted hs input⟩,
    fun _ hs => ⟨step_of_faulted hs, portStep_of_faulted hs input⟩,
    fun turns hs => HostChanges.status (stoppedMachineStaysAsItIs turns s hs)⟩

/-! ### The record is the whole state (R20) -/

/-- The same machine of R20: the same record and the same parameters. -/
def SameMachine (s t : State) : Prop := s.toRecord = t.toRecord ∧ s.cfg = t.cfg

theorem sameMachine_lined (s : State) (a : List StepInput) (n : Nat) : SameMachine s (s.lined a n) := ⟨rfl, rfl⟩

section
variable {s t : State}

/-- On a running machine the port answers the state of the step and the result read off its status (R108). -/
theorem portStep_of_running (hs : s.status = .running) (input : StepInput) :
    ∃ u, step (s.offer input) = .next u ∧ portStep input s = (u, u.result) := by
  obtain ⟨u, hu, -⟩ := step_next_halted_iff (s := s.offer input) (by rw [State.offer_toRecord, hs])
  exact ⟨u, hu, by rw [portStep, hu]⟩

/-- Under other lined-up inputs with the same next one, the fetch, the decoder and the instruction go the same way. -/
theorem runInstr_lined (s : State) (a : List StepInput) (n : Nat) (h : (s.lined a n).input = s.input) :
    runInstr (s.lined a n) = onNext (·.lined a n) (runInstr s) := by
  unfold runInstr
  rw [onNext_ite, show (s.lined a n).fetchWord = s.fetchWord from rfl]
  refine if_congr Iff.rfl rfl ?_
  cases decode s.fetchWord with
  | none => rfl
  | some i => exact exec_lined i s a n h

theorem step_lined (hs : s.status = .running) (a : List StepInput) (n : Nat) (h : (s.lined a n).input = s.input) :
    step (s.lined a n) = onNext (·.lined a.tail (n + 1)) (step s) := by
  rw [step_of_running hs, step_of_running (s := s.lined a n) hs, runInstr_lined s a n h]
  cases runInstr s <;> rfl

/-- A step of the same machine with the same inputs, whatever the queues behind them hold. -/
theorem sameMachine_portStep (h : SameMachine s t) (input : StepInput) :
    (portStep input s).2 = (portStep input t).2 ∧ SameMachine (portStep input s).1 (portStep input t).1 := by
  obtain ⟨a, n, rfl⟩ : ∃ a n, t = s.lined a n := ⟨_, _, State.eq_lined h.1 h.2⟩
  by_cases hs : s.status = .running
  case neg =>
    rw [portStep_of_stopped hs, portStep_of_stopped (s := s.lined a n) hs]
    exact ⟨rfl, sameMachine_lined s a n⟩
  case pos =>
    obtain ⟨u, hu, hport⟩ := portStep_of_running hs input
    have hoffer : (s.lined a n).offer input = (s.offer input).lined (input :: a) n := by
      rw [State.offer_of_running hs, State.offer_of_running (s := s.lined a n) hs]
      rfl
    have hstep := step_lined (s := s.offer input) (by rw [State.offer_toRecord, hs]) (input :: a) n
      (by rw [State.input_offer_of_running hs]; rfl)
    have hport' : portStep input (s.lined a n) = (u.lined a (n + 1), u.result) := by
      rw [portStep, hoffer, hstep, hu]
      rfl
    rw [hport, hport']
    exact ⟨rfl, sameMachine_lined u a (n + 1)⟩

theorem sameMachine_apply (h : SameMachine s t) (a : HostAction) : SameMachine (a.apply s) (a.apply t) := by
  obtain ⟨l, n, rfl⟩ : ∃ l n, t = s.lined l n := ⟨_, _, State.eq_lined h.1 h.2⟩
  cases a <;> exact ⟨rfl, rfl⟩

theorem sameMachine_applyActions (h : SameMachine s t) (acts : List HostAction) :
    SameMachine (applyActions acts s) (applyActions acts t) := by
  induction acts generalizing s t with
  | nil => exact h
  | cons a acts ih => exact ih (sameMachine_apply h a)

theorem sameMachine_drive (h : SameMachine s t) (turns : List Turn) : SameMachine (drive turns s) (drive turns t) := by
  induction turns generalizing s t with
  | nil => exact h
  | cons turn turns ih => exact ih (sameMachine_portStep (sameMachine_applyActions h turn.acts) turn.input).2

end

/-! The parameters stay (R7). -/

theorem step_cfg {s t : State} (h : step s = .next t) : t.cfg = s.cfg := by
  rcases step_cases h with ⟨-, rfl⟩ | ⟨-, -, rfl⟩ | ⟨-, -, -, rfl⟩ | ⟨i, u, -, -, -, hu, rfl⟩
  · rfl
  · rfl
  · rfl
  · exact exec_cfg (t := u) hu

theorem portStep_cfg (input : StepInput) (s : State) : (portStep input s).1.cfg = s.cfg := by
  unfold portStep
  split
  case h_1 t ht => exact (step_cfg ht).trans (State.offer_cfg s input)
  case h_2 | h_3 => rfl

theorem driveTurn_cfg (turn : Turn) (s : State) : (driveTurn turn s).cfg = s.cfg := by
  rw [driveTurn, portStep_cfg, hostChanges_applyActions turn.acts s]

theorem drive_cfg (turns : List Turn) (s : State) : (drive turns s).cfg = s.cfg :=
  List.foldlRecOn (motive := fun t => t.cfg = s.cfg) turns _ rfl fun t ht turn _ => (driveTurn_cfg turn t).trans ht

/-- Settles O58: two states of the same machine differ in the lined-up inputs alone, behind the one a step is called
with. -/
theorem recordIsTheWholeState : Obligations.RecordIsTheWholeState := by
  intro s t hrecord hcfg
  have hsame : SameMachine s t := ⟨hrecord, hcfg⟩
  refine ⟨fun input => ?_, fun turns => ⟨(sameMachine_drive hsame turns).1, drive_cfg turns s⟩⟩
  obtain ⟨hresult, hnext⟩ := sameMachine_portStep hsame input
  exact ⟨hresult, hnext.1⟩

end Sys2Proof.Machine
end

section
/-! Two instructions in a row: a call and its return, a draw and its repetition, a store and the fetch after it
(spec/95_test_vectors.md section 1, spec/44_display.md section 3, spec/70_reset_and_hazards.md section 3). -/

namespace Sys2Proof.Machine

open Statements

/-! ### A call and its return (R121, R122) -/

/-- Settles O27: the call leaves pc + 2 on top of the old stack, and a return depends on the stack alone. -/
theorem callThenReturnComesBack : Obligations.CallThenReturnComesBack := by
  intro nnn s t u hroom ht hu
  obtain ⟨t', ht', -, hstack, -⟩ := (callPushesTheReturnAddress nnn s hroom.le).2.1 hroom
  obtain rfl : t' = t := Host.Outcome.next.inj (ht'.symm.trans ht)
  obtain ⟨v, hv, hpc, hbelow, -, hframe, -⟩ := returnPopsTheReturnAddress.2.1 u s.stack _ (hu.trans hstack)
  exact ⟨v, hv, hpc, hbelow, hframe⟩

/-! ### A draw and its repetition (R171) -/

section
variable (s : State) {x y : Reg} (hx : x ≠ 0xF#4) (hy : y ≠ 0xF#4) (n : Nibble)

/-- The state after the draw of `DRW VX, VY, N`. -/
def State.drawn (s : State) (x y : Reg) (n : Nibble) : State := (s.afterDraw (s.draw x y n)).advance

include hx hy

/-- A draw leaves the sprite, and, with X and Y other than VF, its origin (R160). -/
theorem spriteCovers_drawn (px py : Nat) : spriteCovers (s.drawn x y n) x y n px py ↔ spriteCovers s x y n px py := by
  have hX : (s.drawn x y n).getV x = s.getV x := afterDraw_otherRegs s _ x (mt List.mem_singleton.mp hx)
  have hY : (s.drawn x y n).getV y = s.getV y := afterDraw_otherRegs s _ y (mt List.mem_singleton.mp hy)
  unfold spriteCovers
  rw [hX, hY]
  rfl

/-- Two flips of a covered cell undo each other, and no other cell is touched (R162). -/
theorem draw_drawn_fb : ((s.drawn x y n).draw x y n).1 = s.fb := by
  refine Fb.ext_cells fun j _ => ?_
  by_cases hj : j < s.mode.width * s.mode.height
  case pos =>
    obtain ⟨px, py, hpx, hpy, rfl⟩ := s.mode.exists_cellAt hj
    by_cases hc : spriteCovers s x y n px py
    · have hfirst : (s.drawn x y n).pixel px py = !s.pixel px py := draw_cell_of_covers s x y n hpx hpy hc
      have hsecond := draw_cell_of_covers (s.drawn x y n) x y n hpx hpy
        ((spriteCovers_drawn s hx hy n px py).mpr hc)
      rw [hfirst, Bool.not_not] at hsecond
      exact hsecond
    · have hfirst : (s.drawn x y n).pixel px py = s.pixel px py := draw_cell_of_not_covers s x y n hpx hpy hc
      have hsecond := draw_cell_of_not_covers (s.drawn x y n) x y n hpx hpy
        (mt (spriteCovers_drawn s hx hy n px py).mp hc)
      exact hsecond.trans hfirst
  case neg =>
    have hoff := Nat.le_of_not_gt hj
    exact (draw_cell_off (s.drawn x y n) x y n hoff).trans (draw_cell_off s x y n hoff)

/-- The second draw clears the cells that the first one set. -/
theorem draw_drawn_collides_iff : ((s.drawn x y n).draw x y n).2 = true ↔
    ∃ px py, px < s.mode.width ∧ py < s.mode.height ∧ spriteCovers s x y n px py ∧ s.pixel px py = false := by
  rw [draw_collides_iff_covers]
  refine exists₂_congr fun px py => and_congr_right fun hpx => and_congr_right fun hpy => ?_
  rw [spriteCovers_drawn s hx hy n px py]
  refine and_congr_right fun hc => ?_
  have hfirst : (s.drawn x y n).pixel px py = !s.pixel px py := draw_cell_of_covers s x y n hpx hpy hc
  rw [hfirst, Bool.not_eq_true']

end

theorem flagByte_eq_one_iff (f : Bool) : flagByte f = 1#8 ↔ f = true := by
  cases f <;> decide

/-- Settles O39: the sprite and its origin survive the first draw, so that the second one flips the same cells back. -/
theorem drawTwiceRestoresTheScreen : Obligations.DrawTwiceRestoresTheScreen := by
  intro x y n s t hx hy hmem ht
  obtain rfl : s.drawn x y n = t := Host.Outcome.next.inj ((execDrw_of_inMemory x y hmem).symm.trans ht)
  refine ⟨_, execDrw_of_inMemory (s := s.drawn x y n) x y hmem, draw_drawn_fb s hx hy n, ?_⟩
  rw [getV_afterDraw_advance_flag, flagByte_eq_one_iff]
  exact draw_drawn_collides_iff s hx hy n

/-! ### A store and the fetch after it (R73, R246) -/

section
variable {s : State} {a : Addr}

/-- The byte at pc is the high byte of the fetched word (R61). -/
theorem fetchWord_high (h : codeAddr s.pc = a) : s.fetchWord.toNat / 256 = (s.readByte a).toNat := by
  have hlow := (s.readByte (codeAddr s.pc + 1#12)).isLt
  rw [State.fetchWord, wordOfBytes_toNat, ← h]
  omega

/-- The byte at pc + 1 is the low byte of the fetched word (R61). -/
theorem fetchWord_low (h : codeAddr s.pc + 1#12 = a) : s.fetchWord.toNat % 256 = (s.readByte a).toNat := by
  have hlow := (s.readByte (codeAddr s.pc + 1#12)).isLt
  rw [State.fetchWord, wordOfBytes_toNat, ← h]
  omega

end

/-- Settles O53: the store puts Vz at I + z, and the fetch reads the bytes at pc and pc + 1. -/
theorem storedBytesAreFetchedAtOnce : Obligations.StoredBytesAreFetchedAtOnce := by
  intro x z s t hlast hz ht
  obtain ⟨t', ht', hstored, -⟩ := (registersAreStoredAtI x s).2.1 hlast
  obtain rfl : t' = t := Host.Outcome.next.inj (ht'.symm.trans ht)
  have haddr : (s.I + z.setWidth 12).toNat = s.I.toNat + z.toNat := by
    have hz12 : (z.setWidth 12).toNat = z.toNat := BitVec.toNat_setWidth_of_le (by decide)
    rw [BitVec.toNat_add, hz12]
    omega
  rw [← hstored z hz]
  constructor
  · intro hpc
    refine fetchWord_high (BitVec.eq_of_toNat_eq ?_)
    rw [codeAddr_toNat (by omega), hpc, haddr]
  · intro hpc
    refine fetchWord_low (BitVec.eq_of_toNat_eq ?_)
    rw [BitVec.toNat_add, codeAddr_toNat (by omega), BitVec.toNat_ofNat, haddr]
    omega

end Sys2Proof.Machine
end

section
/-! The host's ports between steps (spec/60_exceptions.md section 3, rules R224 to R230). -/

namespace Sys2Proof.Machine

open Statements

theorem tickDown_toNat (t : Byte) : (tickDown t).toNat = t.toNat - 1 := by
  have ht := t.isLt
  unfold tickDown
  split
  case isTrue hpos => exact BitVec.toNat_sub_of_le (BitVec.le_def.mpr (show (1#8).toNat ≤ t.toNat from hpos))
  case isFalse => omega

/-- Settles O55: the port counts both timers down by `tickDown`, whatever the status. -/
theorem tickCountsBothTimersDown : Obligations.TickCountsBothTimersDown := fun s =>
  ⟨tickDown_toNat s.DT, tickDown_toNat s.ST, rfl⟩

section
variable (k : Nibble) (p : Bool) (s : State)

theorem portSetKey_key_same : (portSetKey k p s).key[k.toNat]? = some p :=
  Vector.getElem?_set_self k.isLt

theorem portSetKey_key_other {j : Nat} (hj : j ≠ k.toNat) : (portSetKey k p s).key[j]? = s.key[j]? :=
  Vector.getElem?_set_ne k.isLt hj.symm

theorem portReadFramebuffer_length :
    (portReadFramebuffer s).2.2.length = s.mode.width * s.mode.height := by
  rw [portReadFramebuffer, List.length_map, List.length_range]

/-- The cells are listed in the row-major order of R37. -/
theorem portReadFramebuffer_pixel {x y : Nat} (hx : x < s.mode.width) (hy : y < s.mode.height) :
    (portReadFramebuffer s).2.2[y * s.mode.width + x]? = some (s.pixel x y) := by
  have hlt : y * s.mode.width + x < s.mode.width * s.mode.height := s.mode.cellAt_lt hx hy
  rw [portReadFramebuffer, List.getElem?_map, List.getElem?_range hlt]
  rfl

end

/-- Settles O56: each port is one update or one reading of its own fields. -/
theorem hostPortsTouchOnlyTheirOwn : Obligations.HostPortsTouchOnlyTheirOwn := fun k p s =>
  ⟨⟨portSetKey_key_same k p s, fun _ => portSetKey_key_other k p s, rfl⟩,
    ⟨rfl, rfl, portReadFramebuffer_length s, fun _ _ => portReadFramebuffer_pixel s⟩, rfl, rfl, bne_iff_ne⟩

end Sys2Proof.Machine
end
